-- ==== Sys2Proof/Word.lean ====
section
/-! DEFINITION. The byte, and the names the spec gives to the two modes and the two tables. -/

namespace Sys2Proof

/-- A byte: 8 bits, an unsigned value 0..255, bit 7 the most significant (00_scope.md §6). -/
abbrev Byte := BitVec 8

/-- The values of `MODE` (10_state.md R14, R15): an enumeration of two; "there is no third value".
Its one-bit code is `Mode.code` (R10). -/
inductive Mode
  | awaitingCommand
  | streaming
deriving DecidableEq, Repr, Inhabited

/-- The response tables, and so the values of `SEL` (10_state.md R14, 20_memory.md R27, R28).
Their one-bit code is `Table.code` (R10). -/
inductive Table
  | securityRegister
  | manufacturerId
deriving DecidableEq, Repr, Inhabited

end Sys2Proof
end

