-- ==== Sys2Proof/Config.lean ====
section
/-! DEFINITION. The implementation parameters (00_scope.md R8) and the values the spec leaves open.
Every open value is a constant with no body: nothing can be proved of which value it is. -/

namespace Sys2Proof

/-- `VARIANT` (00_scope.md R2, R8): chosen when the hardware is built and fixed for its lifetime. -/
inductive Variant
  | base
  | ext
deriving DecidableEq, Repr

/-- `UNREC_POLICY` (93_implementation_defined.md U4, 92_eei_decisions.md D12). `hold` is the block's
behaviour (R53). `anyValue` is U4's guarded treatment, for claims about the impersonated chip: `TXL`
after an `UNREC` step is a draw, and `MODE`, `SEL`, `CUR` hold. Log entry 8. -/
inductive UnrecPolicy
  | hold
  | anyValue
deriving DecidableEq, Repr

namespace Config

/-- `SR_PAYLOAD[j]`, `0 <= j <= 127`: OPEN (R8, R27, D10, U9). Free value; log entry 4. -/
opaque srPayload : Nat → Byte

/-- `MID_CODE[j]`, `0 <= j <= 1`: OPEN (R8, R28, D10, U10). Free value; log entry 4. -/
opaque midCode : Nat → Byte

/-- `TXL_RESET`: the draw of the n-th `RESET` event (R8, R20, U8). Free value; log entry 7. -/
opaque txlReset : Nat → Byte

/-- `CUR_RESET`: the draw of the n-th `RESET` event (R8, R19, U1). Free value; log entry 7. -/
opaque curReset : Nat → Byte

/-- `SEL_RESET`: the draw of the n-th `RESET` event, EXT only (R8, R18, U2). Free value; log entry 7. -/
opaque selReset : Nat → Table

/-- `TXL` after an `UNREC` step under `UnrecPolicy.anyValue` (U4). Free value; log entry 8. -/
opaque unrecTxl : Nat → Byte

/-- The variant of `State.reset` and of `decodeTableWord`: EXT, the preset in which every row of the
opcode table exists. DESIGN CHOICE, log entry 3; a statement about all states holds of both presets. -/
def resetVariant : Variant := .ext

end Config

end Sys2Proof
end

