-- ==== Sys2Proof/Machine/State.lean ====
section
/-! DEFINITION. The state as plain data, the machine after reset, and the reasons a step can stop. -/

namespace Sys2Proof.Machine

/-- The stops of the model. The hardware raises no exception (60_exceptions.md R59). -/
inductive Fault
  /-- `Fault(TableIndex)`: raised by `tableRead` alone, for an index outside the table or for
  `ManufacturerId` in BASE (R31, D13, U3). Safe: the spec gives no value there, and no state reachable
  from `RESET` makes such a read (R23). -/
  | tableIndex
deriving DecidableEq, Repr

/-- Why an instruction would have no meaning. -/
inductive Refusal
  /-- Raised by no step: every row of the opcode table has its meaning. Safe. -/
  | notModelled (mnemonic : String)
deriving DecidableEq, Repr

/-- The three inputs of the core (00_scope.md R11), one at a time, each atomic. -/
inductive Event
  /-- `RESET`: power-up (70_reset_and_hazards.md R75). -/
  | reset
  /-- `XCHG(rx)`: the transport has completed an exchange and received `rx` (60_exceptions.md R62). -/
  | xchg (rx : Byte)
  /-- `DESEL`: the host deasserted select (60_exceptions.md R64). -/
  | desel
deriving DecidableEq, Repr

/-- The core's only memory: the content of its two read-only tables, each an address space of its own
(20_memory.md R29). A cell is (index, byte). Only indices whose byte is a parameter are listed
(`payloadIndex`); an unlisted index reads as `unlistedByte`. -/
structure Memory where
  sr  : List Host.Cell
  mid : List Host.Cell
deriving DecidableEq, Repr

/-- What is fixed when the hardware is built (00_scope.md R8). The spec does not count it as state;
it stands in `State` because the step takes no other argument, and no step changes it (R32).
Log entry 3. -/
structure Device where
  variant     : Variant
  unrecPolicy : UnrecPolicy
  tables      : Memory
deriving DecidableEq, Repr

/-- `mode`, `sel`, `cur`, `txl` are the complete mutable state of the core (10_state.md R14); the other
fields are the model's own. -/
structure State where
  /-- `MODE`. -/
  mode   : Mode
  /-- `SEL`, EXT only: read through `selected`, written through `writeSel`. -/
  sel    : Table
  /-- `CUR`, unsigned. -/
  cur    : Byte
  /-- `TXL`, the output latch. -/
  txl    : Byte
  /-- The parameters of the built device. -/
  device : Device
  /-- The environment's events still to come, the next one first (R12, R47). Log entry 1. -/
  script : List Event
  /-- The bytes the host has received since the last `RESET`, in order: `w_1, w_2, ...` (R70).
  Log entry 2. -/
  wire   : List Byte
  /-- How many free values have been drawn. Log entry 7. -/
  draws  : Nat
deriving DecidableEq, Repr

/-- The state right after a `RESET` whose unspecified values are `sel`, `cur` and `txl`, with no event
yet to come (70_reset_and_hazards.md R76). -/
def State.poweredUp (device : Device) (sel : Table) (cur txl : Byte) : State :=
  { mode := .awaitingCommand, sel := sel, cur := cur, txl := txl, device := device,
    script := [], wire := [], draws := 0 }

/-- `MODE = AwaitingCommand` (R21). `SEL`, `CUR` and `TXL`, which the spec leaves unspecified, are zero:
DESIGN CHOICE, log entry 6. The device is EXT with the open table content: log entries 3, 4. -/
def State.reset : State :=
  State.poweredUp
    { variant := Config.resetVariant, unrecPolicy := .hold, tables := { sr := [], mid := [] } }
    .securityRegister 0 0

end Sys2Proof.Machine
end

