-- ==== Sys2Proof/Machine/Flags.lean ====
section
/-! DEFINITION. The core has no flags (10_state.md R22): its one status facility is a constant. -/

namespace Sys2Proof.Machine

/-- The reply of `STATUS`: "a constant, not a view of any state, and it never changes" (R22). -/
def statusByte : Byte := 0x8C

end Sys2Proof.Machine
end

