-- ==== Sys2Proof/Machine/Operands.lean ====
section
/-! DEFINITION. The hardware has no operand fields (30_encoding.md R44): the constants tied to the opcodes,
the tables' fixed content, and the one-bit codes. -/

namespace Sys2Proof

/-- The code of `MODE`: 0 = AwaitingCommand, 1 = Streaming (R10). -/
def Mode.code : Mode → BitVec 1
  | .awaitingCommand => 0
  | .streaming => 1

/-- The code of `SEL`: 0 = SecurityRegister, 1 = ManufacturerId (R10). -/
def Table.code : Table → BitVec 1
  | .securityRegister => 0
  | .manufacturerId => 1

/-- `length(t)`: 131 and 4 (R9, R27, R28). -/
def Table.length : Table → Nat
  | .securityRegister => 131
  | .manufacturerId => 4

namespace Machine

/-- The index whose byte a table-read command loads (R44, R51, R52). -/
def firstIndex : Nat := 0

/-- The cursor a table-read command sets (R9, R44). -/
def nextCursor : Byte := 1

/-- Does the table exist in the variant? `ManufacturerId` exists in EXT only (R27, R28). -/
def tableExists : Variant → Table → Bool
  | _, .securityRegister => true
  | .base, .manufacturerId => false
  | .ext, .manufacturerId => true

/-- The indices whose byte is a parameter: `SR[3..130]` and `MID[0..1]` (R27, R28). -/
def payloadIndex : Table → Nat → Bool
  | .securityRegister, i => 3 ≤ i && i < 131
  | .manufacturerId, i => i < 2

/-- What an index with no listed cell reads as: the fixed zeros, and elsewhere the open parameter
(R27, R28). The two trailing zeros of `ManufacturerId` are R28's reading: log entry 5. -/
def unlistedByte : Table → Nat → Byte
  | .securityRegister, i => if i < 3 then 0x00 else Config.srPayload (i - 3)
  | .manufacturerId, i => if i < 2 then Config.midCode i else 0x00

end Machine

end Sys2Proof
end

