-- ==== Sys2Proof/Machine/Ops.lean ====
section
/-! DEFINITION. The shared operations over the tables and the four registers. There is no trap entry and
no trap return to share (60_exceptions.md R67); the two events that force a mode stand in Events.lean. -/

namespace Sys2Proof.Machine

/-! ### The tables (20_memory.md) -/

/-- The byte listed for an index, if one is. -/
def lookupCell : List Host.Cell → Nat → Option Byte
  | [], _ => none
  | c :: cs, i => if c.1 = i then some c.2 else lookupCell cs i

/-- The cells of one address space. -/
def Memory.cells (m : Memory) : Table → List Host.Cell
  | .securityRegister => m.sr
  | .manufacturerId => m.mid

/-- The byte of the table's image at an index, from the listed cells where the byte is a parameter. -/
def Memory.byte (m : Memory) (t : Table) (i : Nat) : Byte :=
  if payloadIndex t i then (lookupCell (m.cells t) i).getD (unlistedByte t i) else unlistedByte t i

/-- The canonical form of one address space: indices strictly rising, each one whose byte is a
parameter, and no cell equal to what an unlisted index reads as. -/
abbrev cellsWf (t : Table) (cells : List Host.Cell) : Prop :=
  cells.Pairwise (fun a b => a.1 < b.1) ∧
    ∀ c ∈ cells, payloadIndex t c.1 = true ∧ c.2 ≠ unlistedByte t c.1

/-- The canonical form of the memory. -/
abbrev Memory.wf (m : Memory) : Prop :=
  cellsWf .securityRegister m.sr ∧ cellsWf .manufacturerId m.mid

/-- `TableRead(t, i)` (R30): no side effect; outside the contract, `Fault(TableIndex)` (R31). -/
def tableRead (d : Device) (t : Table) (i : Nat) : Except Fault Byte :=
  if tableExists d.variant t = true ∧ i < t.length then .ok (d.tables.byte t i)
  else .error .tableIndex

/-- `SR_PAYLOAD[j]` of this device (R8, R27). -/
def Device.srPayload (d : Device) (j : Nat) : Byte :=
  (lookupCell d.tables.sr (3 + j)).getD (Config.srPayload j)

/-- `MID_CODE[j]` of this device (R8, R28). -/
def Device.midCode (d : Device) (j : Nat) : Byte :=
  (lookupCell d.tables.mid j).getD (Config.midCode j)

/-! ### The registers (10_state.md) -/

/-- `SEL` as every rule reads it: in BASE the register does not exist and reads as `SecurityRegister`
(R18). -/
def State.selected (s : State) : Table :=
  match s.device.variant with
  | .base => .securityRegister
  | .ext => s.sel

/-- A write of `SEL`: in BASE there is nothing to write (R18). -/
def State.writeSel (s : State) (t : Table) : State :=
  match s.device.variant with
  | .base => s
  | .ext => { s with sel := t }

/-- `MODE <- m`. -/
def State.setMode (s : State) (m : Mode) : State := { s with mode := m }

/-- `CUR <- c`. -/
def State.setCur (s : State) (c : Byte) : State := { s with cur := c }

/-- `TXL <- b`: the transport's `queueTransmit` (60_exceptions.md R70). -/
def State.queueTransmit (s : State) (b : Byte) : State := { s with txl := b }

/-- The events still to come are `es`. -/
def State.setScript (s : State) (es : List Event) : State := { s with script := es }

/-- The next free value is drawn. -/
def State.drawn (s : State) : State := { s with draws := s.draws + 1 }

/-- The transport shifts out `TXL` as the last event left it, and the host receives that byte (R70). -/
def State.shiftOut (s : State) : State := { s with wire := s.wire ++ [s.txl] }

/-! ### Shared steps -/

/-- Entry to `Streaming` with table `t` (41_table_read_commands.md R51, R52): its first byte to `TXL`,
`SEL` and the cursor set. -/
def startStream (t : Table) (s : State) : Host.Outcome State Fault Refusal :=
  match tableRead s.device t firstIndex with
  | .error f => .fault f
  | .ok b => .next ((((s.queueTransmit b).setMode .streaming).writeSel t).setCur nextCursor)

/-- `MODE` after a step that moved the cursor to `c`: at the table's length the stream ends
(43_streaming.md R55, R57: the comparison uses the incremented value). -/
def modeAtCursor (t : Table) (c : Byte) (m : Mode) : Mode :=
  if c.toNat = t.length then .awaitingCommand else m

/-- The byte under the cursor to `TXL`, the cursor one on, and the stream ended by count
(R55). The table is read first, so a fault pre-empts the rest (R56, R66). -/
def streamByte (s : State) : Host.Outcome State Fault Refusal :=
  match tableRead s.device s.selected s.cur.toNat with
  | .error f => .fault f
  | .ok b =>
    .next (((s.queueTransmit b).setCur (s.cur + 1)).setMode
      (modeAtCursor s.selected (s.cur + 1) s.mode))

end Sys2Proof.Machine
end

