-- ==== Sys2Proof/Machine/Events.lean ====
section
/-! DEFINITION. The two events that no received byte raises, their arbitration, the wait, and how events
come to stand in the script (60_exceptions.md §2, 70_reset_and_hazards.md §1). -/

namespace Sys2Proof.Machine

/-- `RESET` (R75, R76): `MODE = AwaitingCommand`; `SEL` (EXT), `CUR` and `TXL` are drawn afresh (D15);
the tables are untouched; the exchanges are numbered from 1 again (R70). -/
def onReset (s : State) : State :=
  ({ s with
      mode := .awaitingCommand
      cur := Config.curReset s.draws
      txl := Config.txlReset s.draws
      wire := [] }.writeSel (Config.selReset s.draws)).drawn

/-- `DESEL` (R65): `MODE <- AwaitingCommand`; `SEL`, `CUR`, `TXL` hold. -/
def onDesel (s : State) : State := s.setMode .awaitingCommand

/-- No event has come: the core waits, and "all state survives the wait" (60_exceptions.md R73). -/
def onWait (s : State) : State := s

/-- What an implementation samples in one internal cycle (60_exceptions.md R66). -/
structure Sample where
  reset : Bool
  xchg  : Option Byte
  desel : Bool
deriving DecidableEq, Repr

/-- The events of one sample in the order they are processed: `XCHG` first, `DESEL` second, and
`RESET` overrides both (R66, D8). -/
def arbitrate (c : Sample) : List Event :=
  if c.reset then [.reset]
  else (c.xchg.map Event.xchg).toList ++ (if c.desel then [.desel] else [])

/-- The environment's further events come after those it has already chosen (R37). -/
def State.offer (s : State) (es : List Event) : State := { s with script := s.script ++ es }

/-- Exchanges put before everything else the environment has chosen. -/
def State.receiveNext (s : State) (bytes : List Byte) : State :=
  { s with script := bytes.map Event.xchg ++ s.script }

end Sys2Proof.Machine
end

