-- ==== Sys2Proof/Syntax.lean ====
section
/-! DEFINITION. The five classes of received byte (30_encoding.md R41), one constructor for each row of
the opcode table. -/

namespace Sys2Proof

/-- A received byte as the decoder classes it. `fill` and `unrec` keep the byte, though no effect
depends on it (R53, R58), so that encoding a decoded byte gives the byte back. -/
inductive Instr
  /-- `FILL`: any byte received while `MODE = Streaming` (R55). -/
  | fill (rx : Byte)
  /-- `STATUS`: `0xD7` received while `MODE = AwaitingCommand` (R50). -/
  | status
  /-- `RDSEC`: `0x77` received while `MODE = AwaitingCommand` (R51). -/
  | rdsec
  /-- `RDID`: `0x9F` received while `MODE = AwaitingCommand`, EXT only (R52). -/
  | rdid
  /-- `UNREC`: any other byte received while `MODE = AwaitingCommand` (R53). -/
  | unrec (rx : Byte)
deriving DecidableEq, Repr

end Sys2Proof
end

