-- ==== Sys2Proof/Decode.lean ====
section
/-! DEFINITION. Decoding of received bytes (30_encoding.md R41 to R49), then the encoder. -/

namespace Sys2Proof

/-- Why a list of bytes yields no instruction. Every byte has a class (R41: the map is total), so the
one reason is that no byte was received. -/
inductive DecodeReject
  | noByte
deriving DecidableEq, Repr

/-- R41's `decode(VARIANT, MODE, rx)`. -/
def classify (v : Variant) (m : Mode) (rx : Byte) : Instr :=
  if m = .streaming then .fill rx
  else if rx = 0xD7 then .status
  else if rx = 0x77 then .rdsec
  else if rx = 0x9F ∧ v = .ext then .rdid
  else .unrec rx

/-- Decode the first of the bytes on the link: a command is always one byte (R42, R48). -/
def decode (v : Variant) (m : Mode) : List Byte → Except DecodeReject (Instr × List Byte)
  | [] => .error .noByte
  | rx :: rest => .ok (classify v m rx, rest)

/-- The byte on the link, host to device (R42, R43, R47). -/
def encode : Instr → List Byte
  | .fill rx => [rx]
  | .status => [0xD7]
  | .rdsec => [0x77]
  | .rdid => [0x9F]
  | .unrec rx => [rx]

/-- The bytes of an `nbits`-wide table word, the first byte from its least significant bits; bits from
`nbits` up are 0, and there is at least one byte. -/
def wordBytes (nbits w : Nat) : List Byte :=
  (List.range (max 1 ((nbits + 7) / 8))).map fun k => BitVec.ofNat 8 ((w % 2 ^ nbits) / 2 ^ (8 * k))

/-- The decoder's reading of an opcode-table word, in the variant and the mode of `State.reset`. The
rows `FILL` and `UNREC` share every word; which of the two a byte is, `MODE` decides (R49), and after
reset it is `UNREC` (log entry 15). -/
def decodeTableWord (nbits w : Nat) : Option Instr :=
  match decode Config.resetVariant .awaitingCommand (wordBytes nbits w) with
  | .ok (i, []) => some i
  | .ok (_, _ :: _) => none
  | .error _ => none

end Sys2Proof
end

