-- ==== Sys2Proof/Machine/Status.lean ====
section
/-! DEFINITION. The status command (40_status_command.md). -/

namespace Sys2Proof.Machine

/-- `STATUS` (R50): `TXL` is loaded with `0x8C`; `MODE`, `CUR` and `SEL` hold. -/
def execStatus (s : State) : Host.Outcome State Fault Refusal :=
  .next (s.queueTransmit statusByte)

end Sys2Proof.Machine
end

