-- ==== Sys2Proof/Machine/Streaming.lean ====
section
/-! DEFINITION. Streaming (43_streaming.md). -/

namespace Sys2Proof.Machine

/-- `FILL` (R55): the received byte plays no part (R58); `SEL` holds. -/
def execFill (_rx : Byte) (s : State) : Host.Outcome State Fault Refusal :=
  streamByte s

end Sys2Proof.Machine
end

