-- ==== Sys2Proof/Machine/TableRead.lean ====
section
/-! DEFINITION. The table-read commands (41_table_read_commands.md). -/

namespace Sys2Proof.Machine

/-- `RDSEC` (R51). -/
def execRdsec (s : State) : Host.Outcome State Fault Refusal :=
  startStream .securityRegister s

/-- `RDID` (R52). The decoder yields it in EXT only; in BASE the table does not exist and reading it is
`Fault(TableIndex)` (R31). -/
def execRdid (s : State) : Host.Outcome State Fault Refusal :=
  startStream .manufacturerId s

end Sys2Proof.Machine
end

