-- ==== Sys2Proof/Machine/Unrecognised.lean ====
section
/-! DEFINITION. Unrecognised opcodes (42_unrecognised_opcode.md). -/

namespace Sys2Proof.Machine

/-- `UNREC` (R53): every register holds, whatever the byte. Under U4's guarded policy `TXL` alone is a
free value instead (log entry 8). -/
def execUnrec (_rx : Byte) (s : State) : Host.Outcome State Fault Refusal :=
  match s.device.unrecPolicy with
  | .hold => .next s
  | .anyValue => .next ((s.queueTransmit (Config.unrecTxl s.draws)).drawn)

end Sys2Proof.Machine
end

