-- ==== Sys2Proof/Machine/Dispatch.lean ====
section
/-! DEFINITION. Every instruction's meaning, one arm each. -/

namespace Sys2Proof.Machine

def exec (i : Instr) (s : State) : Host.Outcome State Fault Refusal :=
  match i with
  | .fill rx => Sys2Proof.Machine.execFill rx s
  | .status => Sys2Proof.Machine.execStatus s
  | .rdsec => Sys2Proof.Machine.execRdsec s
  | .rdid => Sys2Proof.Machine.execRdid s
  | .unrec rx => Sys2Proof.Machine.execUnrec rx s

end Sys2Proof.Machine
end

