-- ==== Sys2Proof/Machine/Exchange.lean ====
section
/-! DEFINITION. One completed exchange (60_exceptions.md R62, R70). -/

namespace Sys2Proof.Machine

/-- The class of a byte received in a state: it depends on the variant and `MODE` alone (R41, R49). -/
def State.classOf (s : State) (rx : Byte) : Instr := classify s.device.variant s.mode rx

/-- `XCHG(rx)`: the byte that was in `TXL` has gone out, and the received byte is decoded and run. -/
def onExchange (rx : Byte) (s : State) : Host.Outcome State Fault Refusal :=
  exec (s.classOf rx) s.shiftOut

end Sys2Proof.Machine
end

