-- ==== Sys2Proof/Machine/Step.lean ====
section
/-! DEFINITION. One step: the next event, or the wait for one (00_scope.md R11, R12). -/

namespace Sys2Proof.Machine

/-- One event at a time, each atomic, applied to the state the previous one left (R11, R37). -/
def step (s : State) : Host.Outcome State Fault Refusal :=
  match s.script with
  | [] => .next (onWait s)
  | .reset :: rest => .next (onReset (s.setScript rest))
  | .desel :: rest => .next (onDesel (s.setScript rest))
  | .xchg rx :: rest => onExchange rx (s.setScript rest)

/-- `s` with the word's bytes as the next exchanges: the core fetches nothing (10_state.md R16), it takes
the byte the transport delivers. Log entry 16. -/
def State.withFetchWord (s : State) (nbits w : Nat) : State := s.receiveNext (wordBytes nbits w)

end Sys2Proof.Machine
end

