-- ==== Sys2Proof/Machine/Script.lean ====
section
/-! DEFINITION. The spec's notation for host scripts (30_encoding.md R47): one token is one event. -/

namespace Sys2Proof.Machine

/-- R47's tokens. A token names what the host sends, not how the core will class it. -/
inductive Token
  | status
  | rdsec
  | rdid
  | byte (b : Byte)
  | fillb (b : Byte)
  | times (n : Nat) (tok : Token)
  | desel
  | reset
deriving DecidableEq, Repr

/-- The events of one token (R47). -/
def Token.events : Token → List Event
  | .status => [.xchg 0xD7]
  | .rdsec => [.xchg 0x77]
  | .rdid => [.xchg 0x9F]
  | .byte b => [.xchg b]
  | .fillb b => [.xchg b]
  | .times n tok => (List.replicate n tok.events).flatten
  | .desel => [.desel]
  | .reset => [.reset]

/-- The events of a host script. -/
def scriptEvents (toks : List Token) : List Event := (toks.map Token.events).flatten

/-- The bytes the host puts on the link for an event; `DESEL` and `RESET` put none. -/
def Event.linkBytes : Event → List Byte
  | .reset => []
  | .xchg rx => [rx]
  | .desel => []

/-- A host script's encoding: the byte string on the link (R47). -/
def scriptBytes (toks : List Token) : List Byte := ((scriptEvents toks).map Event.linkBytes).flatten

end Sys2Proof.Machine
end

