-- ==== Sys2Proof/Machine/Transport.lean ====
section
/-! DEFINITION. The transport adapter by contract, at the level of clock periods (60_exceptions.md R68 to
R72; 20_memory.md R34). Its shift register and bit counter are the collaborator's state, not the core's
(10_state.md R25), so they stand beside `State` and not in it. Log entries 18, 19. -/

namespace Sys2Proof.Machine

/-- The bits of a byte in time order: "bit 7 of `TXL` is the first bit driven" (R34). -/
def bitsOf (b : Byte) : List Bool :=
  [b.getLsbD 7, b.getLsbD 6, b.getLsbD 5, b.getLsbD 4, b.getLsbD 3, b.getLsbD 2, b.getLsbD 1,
    b.getLsbD 0]

/-- The byte captured as bits in time order: "the first bit captured in an exchange is bit 7 of `rx`"
(R34). -/
def byteOf (bits : List Bool) : Byte := BitVec.ofNat 8 (bits.foldl (fun n b => 2 * n + b.toNat) 0)

/-- The adapter: is select asserted, the bits captured of the byte in progress (the first one first), and
the byte copied from `TXL` when that byte began (R70). -/
structure Adapter where
  selected : Bool
  captured : List Bool
  shifter  : Byte
deriving DecidableEq, Repr

/-- What the host can do to the link (R72). -/
inductive HostMove
  /-- Select is asserted. -/
  | select
  /-- One clock period: on its falling edge each side drives a bit, on its rising edge each side
  captures one (R71, whose unfolding by edges is general knowledge, G3). -/
  | clock (hostBit : Bool)
  /-- Select is deasserted. -/
  | deselect
deriving DecidableEq, Repr

/-- What a move does: the adapter after it, the bit the device drives (none while no clock runs), and the
event the core receives. `none`: a move the spec leaves without a step (R72, U7). -/
def Adapter.move (a : Adapter) (txl : Byte) :
    HostMove → Option (Adapter × List Bool × Option Event)
  | .select =>
    if a.selected then none else some ({ a with selected := true, captured := [] }, [], none)
  | .deselect =>
    if a.selected then some ({ a with selected := false, captured := [] }, [], some .desel) else none
  | .clock hostBit =>
    if a.selected then
      let shifter := if a.captured = [] then txl else a.shifter
      let driven := shifter.getLsbD (7 - a.captured.length)
      let got := a.captured ++ [hostBit]
      if got.length = 8 then
        some ({ a with captured := [], shifter := shifter }, [driven], some (.xchg (byteOf got)))
      else
        some ({ a with captured := got, shifter := shifter }, [driven], none)
    else none

/-- The core takes an event at once, before the link moves again (`DEADLINE_MET`, R83; log entry 12). -/
def State.take (s : State) : Option Event → Host.Outcome State Fault Refusal
  | none => .next s
  | some e => step { s with script := e :: s.script }

/-- Adapter and core under a list of host moves, with the bits the device drove, in time order. `none`
where a move has no step, and where the core's step stops. -/
def linkRun : List HostMove → Adapter → State → Option (Adapter × State × List Bool)
  | [], a, s => some (a, s, [])
  | m :: ms, a, s =>
    match a.move s.txl m with
    | none => none
    | some (a', driven, e) =>
      match s.take e with
      | .next s' => (linkRun ms a' s').map fun r => (r.1, r.2.1, driven ++ r.2.2)
      | .fault _ => none
      | .refused _ => none

end Sys2Proof.Machine
end

