-- ==== Sys2Proof/Safety.lean ====
section
/-! DEFINITION. Runs, what a run shows, the states a run can reach, and the invariant that rules out the
one fault. -/

namespace Sys2Proof.Machine

/-- `n` steps, stopping at the first fault or refusal (00_scope.md R13: a finite prefix). -/
def run : Nat → State → Host.Outcome State Fault Refusal
  | 0, s => .next s
  | n + 1, s =>
    match step s with
    | .next t => run n t
    | .fault f => .fault f
    | .refused r => .refused r

/-- The step outputs `q_1 .. q_n`: `TXL` after each step (R13). -/
def outputs : Nat → State → List Byte
  | 0, _ => []
  | n + 1, s =>
    match step s with
    | .next t => t.txl :: outputs n t
    | .fault _ => []
    | .refused _ => []

/-- The exchanges of a byte string. -/
def exchanges (bytes : List Byte) : List Event := bytes.map Event.xchg

/-- The `n` bytes of a table's image from index `i` on, in transmission order (20_memory.md R34). -/
def Device.bytesFrom (d : Device) (t : Table) (i n : Nat) : List Byte :=
  (List.range n).map fun k => d.tables.byte t (i + k)

/-- The opcode that starts the stream of a table (R51, R52). -/
def readOpcode : Table → Byte
  | .securityRegister => 0x77
  | .manufacturerId => 0x9F

/-- R23: `MODE = Streaming` implies `1 <= CUR < length(SEL)`. -/
def State.cursorInRange (s : State) : Prop :=
  s.mode = .streaming → 1 ≤ s.cur.toNat ∧ s.cur.toNat < s.selected.length

/-- The states reachable from `RESET` by any event sequence (R12, R23): any device, any reset draws, the
environment choosing events at any time. -/
inductive Reachable : State → Prop
  | poweredUp (d : Device) (sel : Table) (cur txl : Byte) : Reachable (State.poweredUp d sel cur txl)
  | offer (s : State) (es : List Event) : Reachable s → Reachable (s.offer es)
  | step (s t : State) : Reachable s → step s = .next t → Reachable t

end Sys2Proof.Machine
end

