-- ==== Sys2Proof/WellFormed.lean ====
section
/-! DEFINITION. Which instructions a received byte can be, in a variant and a mode (30_encoding.md R45). -/

namespace Sys2Proof

/-- The opcodes the variant recognises (00_scope.md R2). -/
def Variant.opcodes : Variant → List Byte
  | .base => [0xD7, 0x77]
  | .ext => [0xD7, 0x77, 0x9F]

/-- Every byte is `FILL` while `Streaming`; in `AwaitingCommand` `RDID` exists in EXT only, and
`UNREC` is a byte outside the variant's opcodes (R41, R45, R54). -/
def Instr.wf (v : Variant) (m : Mode) : Instr → Bool
  | .fill _ => m == .streaming
  | .status => m == .awaitingCommand
  | .rdsec => m == .awaitingCommand
  | .rdid => m == .awaitingCommand && v == .ext
  | .unrec rx => m == .awaitingCommand && !(v.opcodes.contains rx)

end Sys2Proof
end

