-- ==== Sys2Proof/Certificates/Slice0/Obligations.lean ====
section
/-! DEFINITION. The statements for the provers. "[D<n>]" in a docstring names a decision of
spec/92_eei_decisions.md, and "log <n>" an entry of the assumption log, on which the statement rests. -/

open Sys2Proof Sys2Proof.Machine

/-! ### Decoding and encoding -/

/-- R41: the class of every (mode, byte) pair, in each variant. -/
def Obligations.ClassifyFollowsOpcodeMap : Prop :=
  ∀ v : Variant,
    (∀ rx, classify v .streaming rx = .fill rx) ∧
    classify v .awaitingCommand 0xD7 = .status ∧
    classify v .awaitingCommand 0x77 = .rdsec ∧
    (v = .ext → classify v .awaitingCommand 0x9F = .rdid) ∧
    (v = .base → classify v .awaitingCommand 0x9F = .unrec 0x9F) ∧
    (∀ rx, rx ≠ 0xD7 → rx ≠ 0x77 → rx ≠ 0x9F → classify v .awaitingCommand rx = .unrec rx)

/-- Decode and encode agree (30_encoding.md): every well-formed instruction's byte decodes to it, whatever
bytes follow. -/
def Obligations.DecodeOfEncodeGivesInstruction : Prop :=
  ∀ (v : Variant) (m : Mode) (i : Instr) (rest : List Byte), i.wf v m = true →
    decode v m (encode i ++ rest) = .ok (i, rest)

/-- The other direction: what the decoder yields is well-formed in the variant and mode it was read in,
and encodes to the byte it was read from; only the empty list is refused. -/
def Obligations.DecodedInstructionIsWellFormed : Prop :=
  ∀ (v : Variant) (m : Mode) (bytes : List Byte),
    (decode v m bytes = .error .noByte ↔ bytes = []) ∧
    ∀ (i : Instr) (rest : List Byte), decode v m bytes = .ok (i, rest) →
      i.wf v m = true ∧ encode i ++ rest = bytes

/-- "Exactly one of five classes" (30_encoding.md): one well-formed instruction to each byte. -/
def Obligations.EveryByteHasExactlyOneClass : Prop :=
  ∀ (v : Variant) (m : Mode) (rx : Byte), ∃! i : Instr, i.wf v m = true ∧ encode i = [rx]

/-- 30_encoding.md: 254 byte values are `UNREC` in BASE, 253 in EXT. -/
def Obligations.UnrecognisedValueCounts : Prop :=
  ((List.range 256).filter fun n =>
      classify .base .awaitingCommand (BitVec.ofNat 8 n) = .unrec (BitVec.ofNat 8 n)).length = 254 ∧
  ((List.range 256).filter fun n =>
      classify .ext .awaitingCommand (BitVec.ofNat 8 n) = .unrec (BitVec.ofNat 8 n)).length = 253

/-- R43: the opcodes and the status reply written out bit by bit, first bit on the link first, and what the
opcodes' bits decode to. -/
def Obligations.OpcodeBitsOnTheLink : Prop :=
  (∀ v : Variant,
    decode v .awaitingCommand [byteOf [true, true, false, true, false, true, true, true]] =
      .ok (.status, []) ∧
    decode v .awaitingCommand [byteOf [false, true, true, true, false, true, true, true]] =
      .ok (.rdsec, [])) ∧
  decode .ext .awaitingCommand [byteOf [true, false, false, true, true, true, true, true]] =
    .ok (.rdid, []) ∧
  encode .status = [byteOf [true, true, false, true, false, true, true, true]] ∧
  encode .rdsec = [byteOf [false, true, true, true, false, true, true, true]] ∧
  encode .rdid = [byteOf [true, false, false, true, true, true, true, true]] ∧
  bitsOf statusByte = [true, false, false, false, true, true, false, false]

/-- 20_memory.md: bit order on the link loses nothing, in either direction; bit 7 travels first. -/
def Obligations.LinkBitsRoundTrip : Prop :=
  (∀ b : Byte, byteOf (bitsOf b) = b) ∧
  (∀ bits : List Bool, bits.length = 8 → bitsOf (byteOf bits) = bits) ∧
  (∀ (b : Byte) (k : Nat), k < 8 → (bitsOf b)[k]? = some (b.getLsbD (7 - k)))

/-- R47: each token's event and its byte on the link. -/
def Obligations.HostScriptTokensAreEvents : Prop :=
  Token.status.events = [.xchg 0xD7] ∧ Token.rdsec.events = [.xchg 0x77] ∧
  Token.rdid.events = [.xchg 0x9F] ∧ Token.desel.events = [.desel] ∧ Token.reset.events = [.reset] ∧
  (∀ b, (Token.byte b).events = [.xchg b] ∧ (Token.fillb b).events = [.xchg b]) ∧
  (∀ tok, (Token.times 0 tok).events = []) ∧
  (∀ n tok, (Token.times (n + 1) tok).events = tok.events ++ (Token.times n tok).events) ∧
  (∀ toks toks', scriptBytes (toks ++ toks') = scriptBytes toks ++ scriptBytes toks') ∧
  scriptBytes [.status, .rdsec, .rdid, .desel, .reset] = [0xD7, 0x77, 0x9F]

/-! ### The tables -/

/-- 20_memory.md on `SecurityRegister`: three zeros, then the 128 payload bytes, in both variants; beyond index
130 the read is the model's fault ([D13], log 22). -/
def Obligations.SecurityRegisterContent : Prop :=
  ∀ d : Device, Table.length .securityRegister = 131 ∧
    (∀ i, i < 3 → tableRead d .securityRegister i = .ok 0x00) ∧
    (∀ j, j ≤ 127 → tableRead d .securityRegister (3 + j) = .ok (d.srPayload j)) ∧
    (∀ i, 131 ≤ i → tableRead d .securityRegister i = .error .tableIndex)

/-- 20_memory.md on `ManufacturerId`: two code bytes, then two zeros (the spec's own reading of the
source, [D10], log 5); the table exists in EXT only, and in BASE every read of it is the model's fault ([D13],
log 22). -/
def Obligations.ManufacturerIdContent : Prop :=
  ∀ d : Device, Table.length .manufacturerId = 4 ∧
    (d.variant = .ext →
      tableRead d .manufacturerId 0 = .ok (d.midCode 0) ∧
      tableRead d .manufacturerId 1 = .ok (d.midCode 1) ∧
      tableRead d .manufacturerId 2 = .ok 0x00 ∧ tableRead d .manufacturerId 3 = .ok 0x00) ∧
    (d.variant = .base → ∀ i, tableRead d .manufacturerId i = .error .tableIndex)

/-- 20_memory.md: `TableRead` answers a byte on its domain, and the model's fault, never a value, off it
([D13]). -/
def Obligations.TableReadAnswersOnItsDomainOnly : Prop :=
  ∀ (d : Device) (t : Table) (i : Nat),
    ((∃ b, tableRead d t i = .ok b) ↔ i < t.length ∧ (t = .manufacturerId → d.variant = .ext)) ∧
    (tableRead d t i = .error .tableIndex ↔
      t.length ≤ i ∨ (t = .manufacturerId ∧ d.variant = .base))

/-- R32: no step, of any number of steps, changes what a table reads as. -/
def Obligations.NoEventWritesATable : Prop :=
  ∀ (n : Nat) (s u : State), run n s = .next u →
    u.device = s.device ∧ ∀ (t : Table) (i : Nat), tableRead u.device t i = tableRead s.device t i

/-! ### The instructions -/

/-- `STATUS` (40_status_command.md): `TXL` is `0x8C`, and nothing else changes (that `CUR` and `SEL` hold is
the spec's own reading, [D6]). -/
def Obligations.StatusLoadsTheStatusByte : Prop :=
  ∀ s : State, exec .status s = .next { s with txl := 0x8C }

/-- `STATUS` on the link (40_status_command.md, corner cases): the reply is on the link from the next
exchange on, and repeats for every unrecognised byte after it; `CUR` and `SEL` hold ([D3],
[D6], [D12], log 2, 8, 20, 21). -/
def Obligations.StatusReplyRepeatsOnTheLink : Prop :=
  ∀ (s : State) (bytes : List Byte) (rest : List Event),
    s.mode = .awaitingCommand → s.device.unrecPolicy = .hold →
    (∀ b ∈ bytes, b ∉ s.device.variant.opcodes) →
    s.script = .xchg 0xD7 :: exchanges bytes ++ rest →
    run (bytes.length + 1) s = .next { s with
      txl := 0x8C, script := rest,
      wire := s.wire ++ s.txl :: List.replicate bytes.length 0x8C }

/-- `RDSEC` (41_table_read_commands.md): the next state, all of it. `SEL` is written in EXT and does not
exist in BASE. -/
def Obligations.RdsecStartsTheSecurityStream : Prop :=
  ∀ s : State,
    tableRead s.device .securityRegister 0 = .ok 0x00 ∧
    exec .rdsec s = .next { s with
      txl := 0x00, mode := .streaming, cur := 1,
      sel := match s.device.variant with
        | .base => s.sel
        | .ext => .securityRegister }

/-- 41_table_read_commands.md: `0x77` in `AwaitingCommand`, with its corner cases: it is `FILL` while `Streaming` (a), the
previous `CUR` and `SEL` do not matter (b), the step output is `0x00` (c), and with 130 fillers of any
value the step outputs are the whole table and the mode is `AwaitingCommand` again (d, e). What is on
the link, and when, rests on [D3] (log 2, 21). -/
def Obligations.SecurityRegisterReadCommand : Prop :=
  ∀ (s : State) (rest : List Event),
    (s.script = .xchg 0x77 :: rest →
      (s.mode = .awaitingCommand →
        ∃ u, step s = .next u ∧ u.txl = 0x00 ∧ u.mode = .streaming ∧
          u.selected = .securityRegister ∧ u.cur = 1 ∧ u.device = s.device) ∧
      (s.mode = .streaming → s.classOf 0x77 = .fill 0x77 ∧
        step s = exec (.fill 0x77) { s with script := rest, wire := s.wire ++ [s.txl] })) ∧
    (∀ fillers : List Byte, fillers.length = 130 → s.mode = .awaitingCommand →
      s.script = .xchg 0x77 :: exchanges fillers ++ rest →
      outputs 131 s = s.device.bytesFrom .securityRegister 0 131 ∧
      ∃ u, run 131 s = .next u ∧ u.mode = .awaitingCommand ∧ u.cur = 131 ∧
        u.selected = .securityRegister ∧ u.script = rest ∧ u.device = s.device ∧
        u.wire = s.wire ++ s.txl :: s.device.bytesFrom .securityRegister 0 130)

/-- `RDID` in EXT (41_table_read_commands.md): the next state, all of it. -/
def Obligations.RdidStartsTheManufacturerStream : Prop :=
  ∀ s : State, s.device.variant = .ext →
    tableRead s.device .manufacturerId 0 = .ok (s.device.midCode 0) ∧
    exec .rdid s = .next { s with
      txl := s.device.midCode 0, mode := .streaming, sel := .manufacturerId, cur := 1 }

/-- `RDID` has no table to read in BASE ([D13]); no step runs it there, since the decoder never yields it. -/
def Obligations.RdidStopsAndIsNeverDecodedInBase : Prop :=
  ∀ s : State, s.device.variant = .base →
    exec .rdid s = .fault .tableIndex ∧ ∀ rx, s.classOf rx ≠ .rdid

/-- 41_table_read_commands.md: `0x9F` in `AwaitingCommand`, EXT, with its corner cases: it is `FILL` while `Streaming` (a), the
whole reply takes three fillers (b), and what `SEL` and `CUR` held before does not matter (c). In BASE
the same byte is `UNREC`. What is on the link, and when, rests on [D3] (log 2, 21). -/
def Obligations.ManufacturerIdReadCommand : Prop :=
  ∀ (s : State) (rest : List Event),
    (s.mode = .streaming → s.classOf 0x9F = .fill 0x9F) ∧
    (s.mode = .awaitingCommand → s.device.variant = .base → s.classOf 0x9F = .unrec 0x9F) ∧
    (s.mode = .awaitingCommand → s.device.variant = .ext →
      (s.script = .xchg 0x9F :: rest →
        ∃ u, step s = .next u ∧ u.txl = s.device.midCode 0 ∧ u.mode = .streaming ∧
          u.selected = .manufacturerId ∧ u.cur = 1 ∧ u.device = s.device) ∧
      (∀ fillers : List Byte, fillers.length = 3 →
        s.script = .xchg 0x9F :: exchanges fillers ++ rest →
        outputs 4 s = s.device.bytesFrom .manufacturerId 0 4 ∧
        ∃ u, run 4 s = .next u ∧ u.mode = .awaitingCommand ∧ u.cur = 4 ∧
          u.selected = .manufacturerId ∧ u.script = rest ∧ u.device = s.device ∧
          u.wire = s.wire ++ s.txl :: s.device.bytesFrom .manufacturerId 0 3))

/-- `UNREC` (42_unrecognised_opcode.md, [D12]): every register holds; under U4's guarded policy (log 8) `TXL`
is the next free value, and every other register holds. -/
def Obligations.UnrecHoldsTheRegisters : Prop :=
  ∀ (s : State) (rx : Byte),
    (s.device.unrecPolicy = .hold → exec (.unrec rx) s = .next s) ∧
    (s.device.unrecPolicy = .anyValue → exec (.unrec rx) s = .next { s with
      txl := Config.unrecTxl s.draws, draws := s.draws + 1 })

/-- 42_unrecognised_opcode.md, corner case (b): `n` unrecognised bytes put the same stale byte on the link
`n` times and change no register ([D2], [D3], [D12], log 2, 8, 9, 21). -/
def Obligations.UnrecognisedBytesRepeatTheStaleByte : Prop :=
  ∀ (s : State) (bytes : List Byte) (rest : List Event),
    s.mode = .awaitingCommand → s.device.unrecPolicy = .hold →
    (∀ b ∈ bytes, b ∉ s.device.variant.opcodes) → s.script = exchanges bytes ++ rest →
    run bytes.length s = .next { s with
      script := rest, wire := s.wire ++ List.replicate bytes.length s.txl }

/-- 42_unrecognised_opcode.md: `0x9F` in BASE is `UNREC` (the spec derives it): no register changes ([D12],
log 8), and the byte that was in `TXL` has gone out on the link ([D3], log 2, 21). -/
def Obligations.BaseTreatsManufacturerOpcodeAsUnrecognised : Prop :=
  ∀ (s : State) (rest : List Event), s.device.variant = .base → s.device.unrecPolicy = .hold →
    s.mode = .awaitingCommand → s.script = .xchg 0x9F :: rest →
    step s = .next { s with script := rest, wire := s.wire ++ [s.txl] }

/-- 43_streaming.md: `FILL` for any byte received while `Streaming`: the byte at the cursor to `TXL`, the cursor one
on, `AwaitingCommand` when the incremented cursor is the table's length, `SEL` held; the model's fault
where the cursor is outside the table ([D13], log 22). That `MODE` is as before, outside `Streaming` too, is
the model's (log 17). -/
def Obligations.FillLoadsTheByteAtTheCursor : Prop :=
  ∀ (s : State) (rx : Byte),
    (s.mode = .streaming → s.classOf rx = .fill rx) ∧
    (s.cur.toNat < s.selected.length →
      ∃ b, tableRead s.device s.selected s.cur.toNat = .ok b ∧
        exec (.fill rx) s = .next { s with
          txl := b, cur := s.cur + 1,
          mode := if s.cur.toNat + 1 = s.selected.length then .awaitingCommand else s.mode }) ∧
    (s.selected.length ≤ s.cur.toNat → exec (.fill rx) s = .fault .tableIndex)

/-- 43_streaming.md: from any point of a stream, each further byte loads the next table byte and moves the cursor by
one, and the mode returns exactly with the last byte, never one exchange early or late; the exchange
after it carries the last table byte and is decoded as an opcode. What is on the
link, and when, rests on [D3] (log 2, 21). -/
def Obligations.StreamEndsExactlyAtTheTableLength : Prop :=
  ∀ (s : State) (bytes : List Byte) (rest : List Event),
    s.mode = .streaming → s.cur.toNat < s.selected.length →
    s.cur.toNat + bytes.length ≤ s.selected.length → s.script = exchanges bytes ++ rest →
    outputs bytes.length s = s.device.bytesFrom s.selected s.cur.toNat bytes.length ∧
    ∃ u, run bytes.length s = .next u ∧
      u.cur.toNat = s.cur.toNat + bytes.length ∧
      u.mode = (if s.cur.toNat + bytes.length = s.selected.length then Mode.awaitingCommand
        else Mode.streaming) ∧
      u.wire ++ [u.txl] =
        s.wire ++ s.txl :: s.device.bytesFrom s.selected s.cur.toNat bytes.length ∧
      u.sel = s.sel ∧ u.device = s.device ∧ u.script = rest ∧ u.draws = s.draws ∧
      (s.cur.toNat + bytes.length = s.selected.length → ∀ b rest', rest = .xchg b :: rest' →
        step u = exec (classify s.device.variant .awaitingCommand b)
          { u with
            script := rest'
            wire := u.wire ++ [s.device.tables.byte s.selected (s.selected.length - 1)] })

/-- R58: while `Streaming` the received byte's content plays no part, and only the count, `DESEL` and
`RESET` leave `Streaming`. -/
def Obligations.StreamingIgnoresTheReceivedByte : Prop :=
  ∀ (s : State), s.mode = .streaming →
    (∀ rx, s.classOf rx = .fill rx) ∧
    (∀ (a b : Byte) (rest : List Event),
      step { s with script := .xchg a :: rest } = step { s with script := .xchg b :: rest }) ∧
    (∀ u, step s = .next u → u.mode = .awaitingCommand →
      (∃ rest, s.script = .reset :: rest) ∨ (∃ rest, s.script = .desel :: rest) ∨
      (∃ rx rest, s.script = .xchg rx :: rest ∧ s.cur.toNat + 1 = s.selected.length))

/-! ### Frames -/

/-- What each instruction leaves unchanged when it answers a next state. `STATUS` and `UNREC` write `TXL`
at most, `FILL` writes `TXL`, `CUR`, `MODE`, and the read commands write all four registers (`SEL` in EXT
alone). No instruction stores to memory: every table reads as before at every index. -/
def Obligations.InstructionFrames : Prop :=
  ∀ (i : Instr) (s u : State), exec i s = .next u →
    u.device = s.device ∧ u.script = s.script ∧ u.wire = s.wire ∧
    (∀ (t : Table) (k : Nat), tableRead u.device t k = tableRead s.device t k) ∧
    (match i with
      | .fill _ => u.sel = s.sel ∧ u.draws = s.draws
      | .status => u.mode = s.mode ∧ u.sel = s.sel ∧ u.cur = s.cur ∧ u.draws = s.draws
      | .rdsec => u.draws = s.draws ∧ (s.device.variant = .base → u.sel = s.sel)
      | .rdid => u.draws = s.draws
      | .unrec _ => u.mode = s.mode ∧ u.sel = s.sel ∧ u.cur = s.cur ∧
          (s.device.unrecPolicy = .hold → u.txl = s.txl ∧ u.draws = s.draws))

/-- R15: after a step `MODE` is `Streaming` exactly when a read command has just set it, or it was and
neither `RESET`, nor `DESEL`, nor the `FILL` that loads the last table byte has cleared it. -/
def Obligations.ModeIsWrittenOnlyByItsWriters : Prop :=
  ∀ s u : State, step s = .next u →
    (u.mode = .streaming ↔
      (s.mode = .awaitingCommand ∧ ∃ rx rest, s.script = .xchg rx :: rest ∧
        (rx = 0x77 ∨ (rx = 0x9F ∧ s.device.variant = .ext))) ∨
      (s.mode = .streaming ∧ (s.script = [] ∨
        ∃ rx rest, s.script = .xchg rx :: rest ∧ s.cur.toNat + 1 ≠ s.selected.length)))

/-- 10_state.md §2 and 43_streaming.md on `CUR`, by what the step took: 1 after a read command, one more
(without carry, and at most the table's length) after `FILL`, kept by `STATUS` ([D6]), `UNREC` ([D6],
[D12]), `DESEL` ([D7], log 11) and the wait (log 1). `RESET` draws it
(`ResetEventDrawsTheUnspecifiedRegisters`). -/
def Obligations.CursorMovesOnlyByReadsAndFills : Prop :=
  ∀ s u : State, step s = .next u →
    (s.script = [] → u.cur = s.cur) ∧
    (∀ rest, s.script = .desel :: rest → u.cur = s.cur) ∧
    (∀ rx rest, s.script = .xchg rx :: rest →
      match s.classOf rx with
      | .fill _ => u.cur.toNat = s.cur.toNat + 1 ∧ u.cur.toNat ≤ s.selected.length
      | .status => u.cur = s.cur
      | .rdsec => u.cur = 1
      | .rdid => u.cur = 1
      | .unrec _ => u.cur = s.cur)

/-- 10_state.md on `SEL`: the table of a stream does not change while the stream lasts; in BASE it is
always `SecurityRegister`; a read command selects its own. -/
def Obligations.SelectedTableIsHeldThroughAStream : Prop :=
  ∀ s u : State, step s = .next u →
    (s.mode = .streaming → u.mode = .streaming → u.selected = s.selected) ∧
    (s.device.variant = .base → u.selected = .securityRegister) ∧
    (s.mode = .awaitingCommand → u.mode = .streaming →
      ∃ rest, s.script = .xchg (readOpcode u.selected) :: rest)

/-! ### The step, the events and the link -/

/-- When the next event is an exchange whose byte decodes to `i`, the step is `exec i`, on the state whose
event has been taken and whose `TXL` has gone out on the link. -/
def Obligations.StepRunsTheDecodedByte : Prop :=
  ∀ (s : State) (rx : Byte) (rest : List Event) (i : Instr) (left : List Byte),
    s.script = .xchg rx :: rest → decode s.device.variant s.mode [rx] = .ok (i, left) →
    step s = exec i { s with script := rest, wire := s.wire ++ [s.txl] }

/-- 60_exceptions.md §5: while no event has come, all state survives the wait (log 1). -/
def Obligations.StepWaitsWithoutAnEvent : Prop :=
  ∀ s : State, s.script = [] → step s = .next s

/-- R21: after `RESET` in any state `MODE = AwaitingCommand`. The tables and parameters are as before. -/
def Obligations.ResetEventLeavesAwaitingCommand : Prop :=
  ∀ (s : State) (rest : List Event), s.script = .reset :: rest →
    ∃ u, step s = .next u ∧ u.mode = .awaitingCommand ∧ u.device = s.device ∧ u.script = rest

/-- 70_reset_and_hazards.md: the registers the spec leaves unspecified are drawn at each `RESET`, `SEL` in
EXT only; the draws are free values and each `RESET` has its own ([D5], [D15], log 7); exchanges are
counted from 1 again (log 2). -/
def Obligations.ResetEventDrawsTheUnspecifiedRegisters : Prop :=
  ∀ (s : State) (rest : List Event), s.script = .reset :: rest →
    step s = .next { s with
      mode := .awaitingCommand
      sel := match s.device.variant with
        | .base => s.sel
        | .ext => Config.selReset s.draws
      cur := Config.curReset s.draws
      txl := Config.txlReset s.draws
      script := rest
      wire := []
      draws := s.draws + 1 }

/-- `State.reset`: `MODE` as the spec states it, memory in canonical form, nothing received yet; it is a
reachable state and meets the invariant. Nothing is said of `SEL`, `CUR`, `TXL` (log 6). -/
def Obligations.ResetStateIsAwaitingCommand : Prop :=
  State.reset.mode = .awaitingCommand ∧ State.reset.device.tables.wf ∧ State.reset.script = [] ∧
    State.reset.wire = [] ∧ State.reset.cursorInRange ∧ Reachable State.reset

/-- `DESEL` in any state (60_exceptions.md, [D7], log 11): `MODE <- AwaitingCommand`, all else held. -/
def Obligations.DeselForcesAwaitingCommand : Prop :=
  ∀ (s : State) (rest : List Event), s.script = .desel :: rest →
    step s = .next { s with mode := .awaitingCommand, script := rest }

/-- The interleaving property (60_exceptions.md §2, 70_reset_and_hazards.md §3; [D3], [D7], log 2, 11, 21): a stream cut by `DESEL`
after `c` table bytes has put the bytes of index below `c - 1` on the link and holds the one of index
`c - 1`; the next exchange carries that stale byte, never the one of index `c`, and its received byte is
decoded as an opcode. -/
def Obligations.InterruptedStreamIsForgotten : Prop :=
  ∀ (s : State) (t : Table) (fillers : List Byte) (b : Byte) (rest : List Event),
    s.mode = .awaitingCommand → tableExists s.device.variant t = true →
    fillers.length + 1 < t.length →
    s.script = .xchg (readOpcode t) :: exchanges fillers ++ .desel :: .xchg b :: rest →
    ∃ u, run (fillers.length + 2) s = .next u ∧ u.mode = .awaitingCommand ∧
      u.cur.toNat = fillers.length + 1 ∧ u.device = s.device ∧
      u.txl = s.device.tables.byte t fillers.length ∧
      u.wire = s.wire ++ s.txl :: s.device.bytesFrom t 0 fillers.length ∧
      step u = exec (classify s.device.variant .awaitingCommand b)
        { u with
          script := rest
          wire := s.wire ++ s.txl :: s.device.bytesFrom t 0 (fillers.length + 1) }

/-- 70_reset_and_hazards.md §3: without `DESEL`, every byte of the next transaction is swallowed as `FILL`
until the count runs out, opcodes among them: after a read command and `j` fillers, any two strings of
at most `length - 1 - j` bytes have the same effect. -/
def Obligations.AbandonedStreamSwallowsBytes : Prop :=
  ∀ (s : State) (t : Table) (fillers xs ys : List Byte) (rest : List Event),
    s.mode = .awaitingCommand → tableExists s.device.variant t = true →
    xs.length = ys.length → fillers.length + xs.length + 1 ≤ t.length →
    run (fillers.length + xs.length + 1)
        { s with script := .xchg (readOpcode t) :: exchanges fillers ++ exchanges xs ++ rest } =
      run (fillers.length + xs.length + 1)
        { s with script := .xchg (readOpcode t) :: exchanges fillers ++ exchanges ys ++ rest } ∧
    outputs (fillers.length + xs.length + 1)
        { s with script := .xchg (readOpcode t) :: exchanges fillers ++ exchanges xs ++ rest } =
      s.device.bytesFrom t 0 (fillers.length + xs.length + 1)

/-- The link relation (60_exceptions.md §4, [D3], [D7], log 2, 11, 21): the byte the host receives during an exchange is
`TXL` as the step of the exchange before left it, however many `DESEL` events come between. -/
def Obligations.LinkCarriesTheLatchOneExchangeLater : Prop :=
  ∀ (s u v : State) (a b : Byte) (n : Nat) (rest : List Event),
    s.script = .xchg a :: List.replicate n .desel ++ .xchg b :: rest →
    step s = .next u → run (n + 1) u = .next v → v.wire = s.wire ++ [s.txl, u.txl]

/-- 70_reset_and_hazards.md §1: after `RESET` the link carries the reset draw on every exchange, whatever the
host sends, until a recognised opcode has loaded `TXL`. The draw is free ([D5], log 7), the hold is [D12] (log 8),
what is on the link, and when, [D3] (log 21), and the bytes are counted from `RESET` on (log 2). -/
def Obligations.FirstExchangesCarryTheResetDraw : Prop :=
  ∀ (s : State) (bytes : List Byte) (b : Byte) (rest : List Event),
    s.device.unrecPolicy = .hold → (∀ x ∈ bytes, x ∉ s.device.variant.opcodes) →
    s.script = .reset :: exchanges bytes ++ .xchg b :: rest →
    ∃ v, run (bytes.length + 2) s = .next v ∧ v.script = rest ∧
      v.wire = List.replicate (bytes.length + 1) (Config.txlReset s.draws)

/-- 60_exceptions.md on simultaneity ([D8], log 10): an `XCHG` and a `DESEL` sampled together are the
exchange's step and then `MODE = AwaitingCommand` with the rest as the exchange left it; a `RESET`
sampled with them is the `RESET` alone. -/
def Obligations.SimultaneousEventsAreOrdered : Prop :=
  (∀ (s u : State) (rx : Byte), s.script = [] →
    step (s.offer [.xchg rx]) = .next u →
    run 2 (s.offer (arbitrate { reset := false, xchg := some rx, desel := true })) =
      .next { u with mode := .awaitingCommand }) ∧
  (∀ x d, arbitrate { reset := true, xchg := x, desel := d } = [.reset]) ∧
  (∀ rx, arbitrate { reset := false, xchg := some rx, desel := false } = [.xchg rx]) ∧
  arbitrate { reset := false, xchg := none, desel := true } = [.desel] ∧
  arbitrate { reset := false, xchg := none, desel := false } = []

/-- An exchange is eight clock periods (60_exceptions.md §4, 20_memory.md §2; [D3], G3, log 18, 21): the host's bits
of `rx`, most significant first, make one `XCHG(rx)` step, and meanwhile the device drives the bits of
`TXL` as it stood when the exchange began. -/
def Obligations.EightClocksAreOneExchange : Prop :=
  ∀ (a : Adapter) (s u : State) (rx : Byte), a.selected = true → a.captured = [] →
    step { s with script := .xchg rx :: s.script } = .next u →
    linkRun ((bitsOf rx).map HostMove.clock) a s =
      some ({ selected := true, captured := [], shifter := s.txl }, u, bitsOf s.txl)

/-- A partial byte is discarded (60_exceptions.md §4, [D9], log 19): after fewer than eight clock periods a
deselection delivers no `XCHG`, only `DESEL` ([D7], log 11), the device having driven one bit of `TXL` for each
period ([D3], G3, log 18, 21); and no clock runs while deselected. -/
def Obligations.PartialByteIsDiscarded : Prop :=
  ∀ (a : Adapter) (s : State),
    (∀ bits : List Bool, a.selected = true → a.captured = [] → bits.length < 8 →
      ∃ a', a'.selected = false ∧ a'.captured = [] ∧
        linkRun (bits.map HostMove.clock ++ [.deselect]) a s =
          some (a', { s with mode := .awaitingCommand }, (bitsOf s.txl).take bits.length)) ∧
    (∀ bit, a.selected = false → linkRun [.clock bit] a s = none)

/-! ### The whole machine -/

/-- 10_state.md, the cursor invariant (the spec derives it): every step keeps it. -/
def Obligations.StepKeepsTheCursorInRange : Prop :=
  ∀ s u : State, s.cursorInRange → step s = .next u → u.cursorInRange

/-- "A streaming overrun cannot occur": from every state reachable from `RESET`, whatever the environment
does, the cursor is in range and the step answers a next state; the model's fault is unreachable
(10_state.md §5, 20_memory.md §1). -/
def Obligations.NoReachableStateFaults : Prop :=
  ∀ s : State, Reachable s → s.cursorInRange ∧ ∃ u, step s = .next u

/-- 60_exceptions.md §1 ([D13]): the one stop there is, and exactly when; nothing is refused. -/
def Obligations.StepStopsOnlyOnACursorOutsideTheTable : Prop :=
  ∀ s : State,
    ((∃ f, step s = .fault f) ↔
      s.mode = .streaming ∧ s.selected.length ≤ s.cur.toNat ∧ ∃ rx rest, s.script = .xchg rx :: rest) ∧
    (∀ r, step s ≠ .refused r)

/-- 70_reset_and_hazards.md §1 (the spec derives it): 130 bytes that are not `0x77` and, in EXT, not
`0x9F` bring the core to `AwaitingCommand`, whatever the state before. -/
def Obligations.HostRegainsAwaitingCommand : Prop :=
  ∀ (s : State) (bytes : List Byte) (rest : List Event), s.cursorInRange → bytes.length = 130 →
    (∀ b ∈ bytes, b ≠ 0x77 ∧ (s.device.variant = .ext → b ≠ 0x9F)) →
    s.script = exchanges bytes ++ rest →
    ∃ u, run 130 s = .next u ∧ u.mode = .awaitingCommand ∧ u.script = rest

/-- 10_state.md (the spec derives it): in BASE `ManufacturerId` need not exist. Two BASE machines that
differ only in its content, and in the field of the absent `SEL` (log 14), show the same bytes for ever (on
the link by [D3], log 2, 21). -/
def Obligations.BaseNeverShowsManufacturerId : Prop :=
  ∀ (n : Nat) (s : State) (cells : List Host.Cell) (sel : Table), s.device.variant = .base →
    outputs n { s with
        sel := sel, device := { s.device with tables := { s.device.tables with mid := cells } } } =
      outputs n s ∧
    ∀ u, run n s = .next u → ∃ v,
      run n { s with
        sel := sel, device := { s.device with tables := { s.device.tables with mid := cells } } } =
        .next v ∧ v.wire = u.wire ∧ v.txl = u.txl ∧ v.mode = u.mode ∧ v.cur = u.cur
end

