-- ==== Sys2Proof/Laws/State.lean ====
section
/-! SUPPORT. One lemma per field per update of `State`. -/

namespace Sys2Proof.Machine

/-! ### `setMode` -/

@[simp] theorem State.setMode_mode (s : State) (m : Mode) : (s.setMode m).mode = m := rfl
@[simp] theorem State.setMode_sel (s : State) (m : Mode) : (s.setMode m).sel = s.sel := rfl
@[simp] theorem State.setMode_cur (s : State) (m : Mode) : (s.setMode m).cur = s.cur := rfl
@[simp] theorem State.setMode_txl (s : State) (m : Mode) : (s.setMode m).txl = s.txl := rfl
@[simp] theorem State.setMode_device (s : State) (m : Mode) : (s.setMode m).device = s.device := rfl
@[simp] theorem State.setMode_script (s : State) (m : Mode) : (s.setMode m).script = s.script := rfl
@[simp] theorem State.setMode_wire (s : State) (m : Mode) : (s.setMode m).wire = s.wire := rfl
@[simp] theorem State.setMode_draws (s : State) (m : Mode) : (s.setMode m).draws = s.draws := rfl
@[simp] theorem State.setMode_selected (s : State) (m : Mode) : (s.setMode m).selected = s.selected := rfl

/-! ### `setCur` -/

@[simp] theorem State.setCur_mode (s : State) (c : Byte) : (s.setCur c).mode = s.mode := rfl
@[simp] theorem State.setCur_sel (s : State) (c : Byte) : (s.setCur c).sel = s.sel := rfl
@[simp] theorem State.setCur_cur (s : State) (c : Byte) : (s.setCur c).cur = c := rfl
@[simp] theorem State.setCur_txl (s : State) (c : Byte) : (s.setCur c).txl = s.txl := rfl
@[simp] theorem State.setCur_device (s : State) (c : Byte) : (s.setCur c).device = s.device := rfl
@[simp] theorem State.setCur_script (s : State) (c : Byte) : (s.setCur c).script = s.script := rfl
@[simp] theorem State.setCur_wire (s : State) (c : Byte) : (s.setCur c).wire = s.wire := rfl
@[simp] theorem State.setCur_draws (s : State) (c : Byte) : (s.setCur c).draws = s.draws := rfl
@[simp] theorem State.setCur_selected (s : State) (c : Byte) : (s.setCur c).selected = s.selected := rfl

/-! ### `queueTransmit` -/

@[simp] theorem State.queueTransmit_mode (s : State) (b : Byte) : (s.queueTransmit b).mode = s.mode := rfl
@[simp] theorem State.queueTransmit_sel (s : State) (b : Byte) : (s.queueTransmit b).sel = s.sel := rfl
@[simp] theorem State.queueTransmit_cur (s : State) (b : Byte) : (s.queueTransmit b).cur = s.cur := rfl
@[simp] theorem State.queueTransmit_txl (s : State) (b : Byte) : (s.queueTransmit b).txl = b := rfl
@[simp] theorem State.queueTransmit_device (s : State) (b : Byte) : (s.queueTransmit b).device = s.device := rfl
@[simp] theorem State.queueTransmit_script (s : State) (b : Byte) : (s.queueTransmit b).script = s.script := rfl
@[simp] theorem State.queueTransmit_wire (s : State) (b : Byte) : (s.queueTransmit b).wire = s.wire := rfl
@[simp] theorem State.queueTransmit_draws (s : State) (b : Byte) : (s.queueTransmit b).draws = s.draws := rfl
@[simp] theorem State.queueTransmit_selected (s : State) (b : Byte) : (s.queueTransmit b).selected = s.selected := rfl

/-! ### `setScript` -/

@[simp] theorem State.setScript_mode (s : State) (es : List Event) : (s.setScript es).mode = s.mode := rfl
@[simp] theorem State.setScript_sel (s : State) (es : List Event) : (s.setScript es).sel = s.sel := rfl
@[simp] theorem State.setScript_cur (s : State) (es : List Event) : (s.setScript es).cur = s.cur := rfl
@[simp] theorem State.setScript_txl (s : State) (es : List Event) : (s.setScript es).txl = s.txl := rfl
@[simp] theorem State.setScript_device (s : State) (es : List Event) : (s.setScript es).device = s.device := rfl
@[simp] theorem State.setScript_script (s : State) (es : List Event) : (s.setScript es).script = es := rfl
@[simp] theorem State.setScript_wire (s : State) (es : List Event) : (s.setScript es).wire = s.wire := rfl
@[simp] theorem State.setScript_draws (s : State) (es : List Event) : (s.setScript es).draws = s.draws := rfl
@[simp] theorem State.setScript_selected (s : State) (es : List Event) :
    (s.setScript es).selected = s.selected := rfl

/-! ### `drawn` -/

@[simp] theorem State.drawn_mode (s : State) : (s.drawn).mode = s.mode := rfl
@[simp] theorem State.drawn_sel (s : State) : (s.drawn).sel = s.sel := rfl
@[simp] theorem State.drawn_cur (s : State) : (s.drawn).cur = s.cur := rfl
@[simp] theorem State.drawn_txl (s : State) : (s.drawn).txl = s.txl := rfl
@[simp] theorem State.drawn_device (s : State) : (s.drawn).device = s.device := rfl
@[simp] theorem State.drawn_script (s : State) : (s.drawn).script = s.script := rfl
@[simp] theorem State.drawn_wire (s : State) : (s.drawn).wire = s.wire := rfl
@[simp] theorem State.drawn_draws (s : State) : (s.drawn).draws = s.draws + 1 := rfl
@[simp] theorem State.drawn_selected (s : State) : (s.drawn).selected = s.selected := rfl

/-! ### `shiftOut` -/

@[simp] theorem State.shiftOut_mode (s : State) : (s.shiftOut).mode = s.mode := rfl
@[simp] theorem State.shiftOut_sel (s : State) : (s.shiftOut).sel = s.sel := rfl
@[simp] theorem State.shiftOut_cur (s : State) : (s.shiftOut).cur = s.cur := rfl
@[simp] theorem State.shiftOut_txl (s : State) : (s.shiftOut).txl = s.txl := rfl
@[simp] theorem State.shiftOut_device (s : State) : (s.shiftOut).device = s.device := rfl
@[simp] theorem State.shiftOut_script (s : State) : (s.shiftOut).script = s.script := rfl
@[simp] theorem State.shiftOut_wire (s : State) : (s.shiftOut).wire = s.wire ++ [s.txl] := rfl
@[simp] theorem State.shiftOut_draws (s : State) : (s.shiftOut).draws = s.draws := rfl
@[simp] theorem State.shiftOut_selected (s : State) : (s.shiftOut).selected = s.selected := rfl

/-! ### `offer` -/

@[simp] theorem State.offer_mode (s : State) (es : List Event) : (s.offer es).mode = s.mode := rfl
@[simp] theorem State.offer_sel (s : State) (es : List Event) : (s.offer es).sel = s.sel := rfl
@[simp] theorem State.offer_cur (s : State) (es : List Event) : (s.offer es).cur = s.cur := rfl
@[simp] theorem State.offer_txl (s : State) (es : List Event) : (s.offer es).txl = s.txl := rfl
@[simp] theorem State.offer_device (s : State) (es : List Event) : (s.offer es).device = s.device := rfl
@[simp] theorem State.offer_script (s : State) (es : List Event) : (s.offer es).script = s.script ++ es := rfl
@[simp] theorem State.offer_wire (s : State) (es : List Event) : (s.offer es).wire = s.wire := rfl
@[simp] theorem State.offer_draws (s : State) (es : List Event) : (s.offer es).draws = s.draws := rfl

/-! ### `receiveNext` -/

@[simp] theorem State.receiveNext_mode (s : State) (bytes : List Byte) : (s.receiveNext bytes).mode = s.mode := rfl
@[simp] theorem State.receiveNext_sel (s : State) (bytes : List Byte) : (s.receiveNext bytes).sel = s.sel := rfl
@[simp] theorem State.receiveNext_cur (s : State) (bytes : List Byte) : (s.receiveNext bytes).cur = s.cur := rfl
@[simp] theorem State.receiveNext_txl (s : State) (bytes : List Byte) : (s.receiveNext bytes).txl = s.txl := rfl
@[simp] theorem State.receiveNext_device (s : State) (bytes : List Byte) : (s.receiveNext bytes).device = s.device := rfl
@[simp] theorem State.receiveNext_script (s : State) (bytes : List Byte) : (s.receiveNext bytes).script = bytes.map Event.xchg ++ s.script := rfl
@[simp] theorem State.receiveNext_wire (s : State) (bytes : List Byte) : (s.receiveNext bytes).wire = s.wire := rfl
@[simp] theorem State.receiveNext_draws (s : State) (bytes : List Byte) : (s.receiveNext bytes).draws = s.draws := rfl

/-! ### `writeSel` -/

@[simp] theorem State.writeSel_mode (s : State) (t : Table) : (s.writeSel t).mode = s.mode := by
  unfold State.writeSel; split <;> rfl
@[simp] theorem State.writeSel_cur (s : State) (t : Table) : (s.writeSel t).cur = s.cur := by
  unfold State.writeSel; split <;> rfl
@[simp] theorem State.writeSel_txl (s : State) (t : Table) : (s.writeSel t).txl = s.txl := by
  unfold State.writeSel; split <;> rfl
@[simp] theorem State.writeSel_device (s : State) (t : Table) : (s.writeSel t).device = s.device := by
  unfold State.writeSel; split <;> rfl
@[simp] theorem State.writeSel_script (s : State) (t : Table) : (s.writeSel t).script = s.script := by
  unfold State.writeSel; split <;> rfl
@[simp] theorem State.writeSel_wire (s : State) (t : Table) : (s.writeSel t).wire = s.wire := by
  unfold State.writeSel; split <;> rfl
@[simp] theorem State.writeSel_draws (s : State) (t : Table) : (s.writeSel t).draws = s.draws := by
  unfold State.writeSel; split <;> rfl
@[simp] theorem State.writeSel_sel (s : State) (t : Table) :
    (s.writeSel t).sel = match s.device.variant with
      | .base => s.sel
      | .ext => t := by
  unfold State.writeSel; split <;> simp_all

@[simp] theorem State.writeSel_base (s : State) (t : Table) (h : s.device.variant = .base) :
    s.writeSel t = s := by
  simp [State.writeSel, h]

@[simp] theorem State.writeSel_ext (s : State) (t : Table) (h : s.device.variant = .ext) :
    s.writeSel t = { s with sel := t } := by
  simp [State.writeSel, h]

theorem State.selected_base (s : State) (h : s.device.variant = .base) :
    s.selected = .securityRegister := by
  simp [State.selected, h]

theorem State.selected_ext (s : State) (h : s.device.variant = .ext) : s.selected = s.sel := by
  simp [State.selected, h]

/-- The table just selected is the one read, if it exists in the variant. -/
theorem State.selected_writeSel (s : State) (t : Table) (h : tableExists s.device.variant t = true) :
    (s.writeSel t).selected = t := by
  cases hv : s.device.variant <;> cases t <;> simp_all [State.writeSel, State.selected, tableExists]

/-- A table that is selected exists in the variant. -/
theorem tableExists_selected (s : State) : tableExists s.device.variant s.selected = true := by
  cases hv : s.device.variant <;> cases hs : s.sel <;> simp [State.selected, hv, hs, tableExists]

/-! ### The events -/

@[simp] theorem onDesel_mode (s : State) : (onDesel s).mode = .awaitingCommand := rfl
@[simp] theorem onDesel_sel (s : State) : (onDesel s).sel = s.sel := rfl
@[simp] theorem onDesel_cur (s : State) : (onDesel s).cur = s.cur := rfl
@[simp] theorem onDesel_txl (s : State) : (onDesel s).txl = s.txl := rfl
@[simp] theorem onDesel_device (s : State) : (onDesel s).device = s.device := rfl
@[simp] theorem onDesel_script (s : State) : (onDesel s).script = s.script := rfl
@[simp] theorem onDesel_wire (s : State) : (onDesel s).wire = s.wire := rfl
@[simp] theorem onDesel_draws (s : State) : (onDesel s).draws = s.draws := rfl

@[simp] theorem onWait_mode (s : State) : (onWait s).mode = s.mode := rfl
@[simp] theorem onWait_sel (s : State) : (onWait s).sel = s.sel := rfl
@[simp] theorem onWait_cur (s : State) : (onWait s).cur = s.cur := rfl
@[simp] theorem onWait_txl (s : State) : (onWait s).txl = s.txl := rfl
@[simp] theorem onWait_device (s : State) : (onWait s).device = s.device := rfl
@[simp] theorem onWait_script (s : State) : (onWait s).script = s.script := rfl
@[simp] theorem onWait_wire (s : State) : (onWait s).wire = s.wire := rfl
@[simp] theorem onWait_draws (s : State) : (onWait s).draws = s.draws := rfl

@[simp] theorem onReset_mode (s : State) : (onReset s).mode = .awaitingCommand := by simp [onReset]
@[simp] theorem onReset_cur (s : State) : (onReset s).cur = Config.curReset s.draws := by simp [onReset]
@[simp] theorem onReset_txl (s : State) : (onReset s).txl = Config.txlReset s.draws := by simp [onReset]
@[simp] theorem onReset_device (s : State) : (onReset s).device = s.device := by simp [onReset]
@[simp] theorem onReset_script (s : State) : (onReset s).script = s.script := by simp [onReset]
@[simp] theorem onReset_wire (s : State) : (onReset s).wire = [] := by simp [onReset]
@[simp] theorem onReset_draws (s : State) : (onReset s).draws = s.draws + 1 := by simp [onReset]

end Sys2Proof.Machine
end

