-- ==== Sys2Proof/Laws/Ops.lean ====
section
/-! SUPPORT. What each shared operation and each meaning can do, said once. -/

namespace Sys2Proof

theorem Table.length_pos (t : Table) : 0 < t.length := by cases t <;> decide

theorem Table.one_lt_length (t : Table) : 1 < t.length := by cases t <;> decide

theorem Table.length_le (t : Table) : t.length ≤ 131 := by cases t <;> decide

end Sys2Proof

namespace Sys2Proof.Machine

/-! ### The tables -/

theorem tableRead_ok (d : Device) (t : Table) (i : Nat) (he : tableExists d.variant t = true)
    (hi : i < t.length) : tableRead d t i = .ok (d.tables.byte t i) := by
  simp [tableRead, he, hi]

theorem tableRead_error (d : Device) (t : Table) (i : Nat)
    (h : ¬(tableExists d.variant t = true ∧ i < t.length)) :
    tableRead d t i = .error .tableIndex := by
  simp only [tableRead, if_neg h]

/-- A read answers the image's byte inside the contract, and the one fault outside it. -/
theorem tableRead_cases (d : Device) (t : Table) (i : Nat) :
    (tableExists d.variant t = true ∧ i < t.length ∧ tableRead d t i = .ok (d.tables.byte t i)) ∨
    (¬(tableExists d.variant t = true ∧ i < t.length) ∧ tableRead d t i = .error .tableIndex) := by
  by_cases h : tableExists d.variant t = true ∧ i < t.length
  · exact .inl ⟨h.1, h.2, tableRead_ok d t i h.1 h.2⟩
  · exact .inr ⟨h, tableRead_error d t i h⟩

/-- The header of `SecurityRegister` is zero whatever the image lists (R27). -/
theorem Memory.byte_header (m : Memory) (i : Nat) (h : i < 3) : m.byte .securityRegister i = 0x00 := by
  have : payloadIndex .securityRegister i = false := by simp [payloadIndex]; omega
  simp [Memory.byte, this, unlistedByte, h]

theorem Memory.wf_empty : Memory.wf { sr := [], mid := [] } := by
  simp [Memory.wf, cellsWf]

/-! ### The cursor -/

/-- Below a table's length the cursor's increment has no carry out (R56). -/
theorem cursor_succ (c : Byte) (t : Table) (h : c.toNat < t.length) : (c + 1).toNat = c.toNat + 1 := by
  have := t.length_le
  rw [BitVec.toNat_add]
  simp
  omega

theorem modeAtCursor_end (t : Table) (c : Byte) (m : Mode) (h : c.toNat = t.length) :
    modeAtCursor t c m = .awaitingCommand := by
  simp [modeAtCursor, h]

theorem modeAtCursor_more (t : Table) (c : Byte) (m : Mode) (h : c.toNat ≠ t.length) :
    modeAtCursor t c m = m := by
  simp [modeAtCursor, h]

/-! ### The shared steps -/

theorem startStream_next (t : Table) (s : State) (h : tableExists s.device.variant t = true) :
    startStream t s = .next ((((s.queueTransmit (s.device.tables.byte t firstIndex)).setMode
      .streaming).writeSel t).setCur nextCursor) := by
  simp [startStream, tableRead_ok s.device t firstIndex h t.length_pos]

theorem startStream_fault (t : Table) (s : State) (h : tableExists s.device.variant t = false) :
    startStream t s = .fault .tableIndex := by
  simp [startStream, tableRead_error s.device t firstIndex (by simp [h])]

theorem streamByte_next (s : State) (h : s.cur.toNat < s.selected.length) :
    streamByte s = .next (((s.queueTransmit (s.device.tables.byte s.selected s.cur.toNat)).setCur
      (s.cur + 1)).setMode (modeAtCursor s.selected (s.cur + 1) s.mode)) := by
  simp [streamByte, tableRead_ok s.device s.selected s.cur.toNat (tableExists_selected s) h]

theorem streamByte_fault (s : State) (h : ¬ s.cur.toNat < s.selected.length) :
    streamByte s = .fault .tableIndex := by
  simp [streamByte, tableRead_error s.device s.selected s.cur.toNat (fun hh => h hh.2)]

/-! ### The dispatch -/

theorem exec_fill (rx : Byte) (s : State) : exec (.fill rx) s = streamByte s := rfl
theorem exec_status (s : State) : exec .status s = .next (s.queueTransmit statusByte) := rfl
theorem exec_rdsec (s : State) : exec .rdsec s = startStream .securityRegister s := rfl
theorem exec_rdid (s : State) : exec .rdid s = startStream .manufacturerId s := rfl
theorem exec_unrec (rx : Byte) (s : State) : exec (.unrec rx) s = execUnrec rx s := rfl

/-! ### What a meaning that answers a next state has done -/

theorem execStatus_cases {s u : State} (h : execStatus s = .next u) : u = s.queueTransmit statusByte := by
  simpa [execStatus] using h.symm

theorem startStream_cases {t : Table} {s u : State} (h : startStream t s = .next u) :
    tableExists s.device.variant t = true ∧
    u = (((s.queueTransmit (s.device.tables.byte t firstIndex)).setMode .streaming).writeSel t).setCur
      nextCursor := by
  cases he : tableExists s.device.variant t with
  | true => rw [startStream_next t s he] at h; exact ⟨rfl, by simpa using h.symm⟩
  | false => rw [startStream_fault t s he] at h; cases h

theorem streamByte_cases {s u : State} (h : streamByte s = .next u) :
    s.cur.toNat < s.selected.length ∧
    u = ((s.queueTransmit (s.device.tables.byte s.selected s.cur.toNat)).setCur
      (s.cur + 1)).setMode (modeAtCursor s.selected (s.cur + 1) s.mode) := by
  by_cases hc : s.cur.toNat < s.selected.length
  · rw [streamByte_next s hc] at h; exact ⟨hc, by simpa using h.symm⟩
  · rw [streamByte_fault s hc] at h; cases h

theorem execUnrec_cases {rx : Byte} {s u : State} (h : execUnrec rx s = .next u) :
    (s.device.unrecPolicy = .hold ∧ u = s) ∨
    (s.device.unrecPolicy = .anyValue ∧ u = (s.queueTransmit (Config.unrecTxl s.draws)).drawn) := by
  cases hp : s.device.unrecPolicy with
  | hold => exact .inl ⟨rfl, by simpa [execUnrec, hp] using h.symm⟩
  | anyValue => exact .inr ⟨rfl, by simpa [execUnrec, hp] using h.symm⟩

theorem execUnrec_hold (rx : Byte) (s : State) (h : s.device.unrecPolicy = .hold) :
    execUnrec rx s = .next s := by
  simp [execUnrec, h]

theorem execUnrec_anyValue (rx : Byte) (s : State) (h : s.device.unrecPolicy = .anyValue) :
    execUnrec rx s = .next ((s.queueTransmit (Config.unrecTxl s.draws)).drawn) := by
  simp [execUnrec, h]

/-- What an instruction that answers a next state has done. -/
theorem exec_cases {i : Instr} {s u : State} (h : exec i s = .next u) :
    (∃ rx, i = .fill rx ∧ s.cur.toNat < s.selected.length ∧
      u = ((s.queueTransmit (s.device.tables.byte s.selected s.cur.toNat)).setCur
        (s.cur + 1)).setMode (modeAtCursor s.selected (s.cur + 1) s.mode)) ∨
    (i = .status ∧ u = s.queueTransmit statusByte) ∨
    (∃ t, (i = .rdsec ∧ t = .securityRegister ∨ i = .rdid ∧ t = .manufacturerId) ∧
      tableExists s.device.variant t = true ∧
      u = (((s.queueTransmit (s.device.tables.byte t firstIndex)).setMode .streaming).writeSel
        t).setCur nextCursor) ∨
    (∃ rx, i = .unrec rx ∧ s.device.unrecPolicy = .hold ∧ u = s) ∨
    (∃ rx, i = .unrec rx ∧ s.device.unrecPolicy = .anyValue ∧
      u = (s.queueTransmit (Config.unrecTxl s.draws)).drawn) := by
  cases i with
  | fill rx => rw [exec_fill] at h; exact .inl ⟨rx, rfl, streamByte_cases h⟩
  | status => exact .inr (.inl ⟨rfl, execStatus_cases h⟩)
  | rdsec =>
    rw [exec_rdsec] at h
    exact .inr (.inr (.inl ⟨_, .inl ⟨rfl, rfl⟩, startStream_cases h⟩))
  | rdid =>
    rw [exec_rdid] at h
    exact .inr (.inr (.inl ⟨_, .inr ⟨rfl, rfl⟩, startStream_cases h⟩))
  | unrec rx =>
    rw [exec_unrec] at h
    obtain h | h := execUnrec_cases h
    · exact .inr (.inr (.inr (.inl ⟨rx, rfl, h⟩)))
    · exact .inr (.inr (.inr (.inr ⟨rx, rfl, h⟩)))

end Sys2Proof.Machine
end

