-- ==== Sys2Proof/Laws/PerInstr.lean ====
section
/-! SUPPORT. Facts of every instruction as syntax, one lemma per constructor. -/

namespace Sys2Proof.Laws

/-- A command is always one byte (30_encoding.md R48). -/
def OneByte.Statement (i : Instr) : Prop := (encode i).length = 1

theorem OneByte.fill (rx : Byte) : OneByte.Statement (.fill rx) := rfl
theorem OneByte.status : OneByte.Statement .status := rfl
theorem OneByte.rdsec : OneByte.Statement .rdsec := rfl
theorem OneByte.rdid : OneByte.Statement .rdid := rfl
theorem OneByte.unrec (rx : Byte) : OneByte.Statement (.unrec rx) := rfl

end Sys2Proof.Laws
end

