-- ==== Sys2Proof/Laws/Step.lean ====
section
/-! SUPPORT. The equations of a step, by the next event of the script. -/

namespace Sys2Proof.Machine

theorem step_wait {s : State} (h : s.script = []) : step s = .next s := by
  simp [step, h, onWait]

theorem step_reset {s : State} {rest : List Event} (h : s.script = .reset :: rest) :
    step s = .next (onReset (s.setScript rest)) := by
  simp [step, h]

theorem step_desel {s : State} {rest : List Event} (h : s.script = .desel :: rest) :
    step s = .next (onDesel (s.setScript rest)) := by
  simp [step, h]

theorem step_xchg {s : State} {rx : Byte} {rest : List Event} (h : s.script = .xchg rx :: rest) :
    step s = exec (s.classOf rx) (s.setScript rest).shiftOut := by
  simp [step, h, onExchange, State.classOf]

/-- What a step that answers a next state has done, by the event it took. -/
theorem step_cases {s u : State} (h : step s = .next u) :
    (s.script = [] ∧ u = s) ∨
    (∃ rest, s.script = .reset :: rest ∧ u = onReset (s.setScript rest)) ∨
    (∃ rest, s.script = .desel :: rest ∧ u = onDesel (s.setScript rest)) ∨
    (∃ rx rest, s.script = .xchg rx :: rest ∧
      exec (s.classOf rx) (s.setScript rest).shiftOut = .next u) := by
  cases hs : s.script with
  | nil => rw [step_wait hs] at h; exact .inl ⟨rfl, by simpa using h.symm⟩
  | cons e rest =>
    cases e with
    | reset => rw [step_reset hs] at h; exact .inr (.inl ⟨rest, rfl, by simpa using h.symm⟩)
    | desel => rw [step_desel hs] at h; exact .inr (.inr (.inl ⟨rest, rfl, by simpa using h.symm⟩))
    | xchg rx => rw [step_xchg hs] at h; exact .inr (.inr (.inr ⟨rx, rest, rfl, h⟩))

/-! ### The class of a byte, by mode -/

theorem classOf_streaming {s : State} (h : s.mode = .streaming) (rx : Byte) : s.classOf rx = .fill rx := by
  simp [State.classOf, classify, h]

/-- In `AwaitingCommand` a byte is one of the variant's commands, or `UNREC` (R45). -/
theorem classOf_awaiting_cases {s : State} (h : s.mode = .awaitingCommand) (rx : Byte) :
    (rx = 0xD7 ∧ s.classOf rx = .status) ∨ (rx = 0x77 ∧ s.classOf rx = .rdsec) ∨
    (rx = 0x9F ∧ s.device.variant = .ext ∧ s.classOf rx = .rdid) ∨
    (rx ≠ 0xD7 ∧ rx ≠ 0x77 ∧ ¬(rx = 0x9F ∧ s.device.variant = .ext) ∧ s.classOf rx = .unrec rx) := by
  simp only [State.classOf, classify, h]
  by_cases h1 : rx = 0xD7
  · simp [h1]
  · by_cases h2 : rx = 0x77
    · simp [h2]
    · by_cases h3 : rx = 0x9F ∧ s.device.variant = .ext
      · simp [h3]
      · refine .inr (.inr (.inr ⟨h1, h2, h3, ?_⟩))
        rw [if_neg (by simp), if_neg h1, if_neg h2, if_neg h3]

/-! ### An exchange, by mode -/

/-- While `Streaming` with the cursor inside the table, any byte is a `FILL` that goes on. -/
theorem step_streaming {s : State} {rx : Byte} {rest : List Event} (hm : s.mode = .streaming)
    (hc : s.cur.toNat < s.selected.length) (hs : s.script = .xchg rx :: rest) :
    step s = .next ((((s.setScript rest).shiftOut.queueTransmit
      (s.device.tables.byte s.selected s.cur.toNat)).setCur (s.cur + 1)).setMode
        (modeAtCursor s.selected (s.cur + 1) .streaming)) := by
  rw [step_xchg hs, classOf_streaming hm, exec_fill, streamByte_next (s.setScript rest).shiftOut hc]
  simp [hm]

/-- The opcode of a table that exists starts its stream. -/
theorem step_readOpcode {s : State} {t : Table} {rest : List Event} (hm : s.mode = .awaitingCommand)
    (he : tableExists s.device.variant t = true) (hs : s.script = .xchg (readOpcode t) :: rest) :
    step s = .next (((((s.setScript rest).shiftOut.queueTransmit (s.device.tables.byte t 0)).setMode
      .streaming).writeSel t).setCur 1) := by
  have hx : exec (s.classOf (readOpcode t)) (s.setScript rest).shiftOut =
      startStream t (s.setScript rest).shiftOut := by
    cases t with
    | securityRegister => simp [State.classOf, classify, hm, readOpcode, exec_rdsec]
    | manufacturerId =>
      have hv : s.device.variant = .ext := by
        cases h : s.device.variant <;> simp_all [tableExists]
      simp [State.classOf, classify, hm, hv, readOpcode, exec_rdid]
  rw [step_xchg hs, hx, startStream_next t (s.setScript rest).shiftOut he]
  rfl

end Sys2Proof.Machine
end

