-- ==== Sys2Proof/Laws/Run.lean ====
section
/-! SUPPORT. Runs: composition, the host's run, and what an exchange leaves alone. -/

namespace Sys2Proof.Machine

@[simp] theorem run_zero (s : State) : run 0 s = .next s := rfl

theorem run_succ_of_next {s u : State} (n : Nat) (h : step s = .next u) : run (n + 1) s = run n u := by
  simp [run, h]

/-- A run is its first steps and then the rest. -/
theorem run_add_of_next {s u : State} (m n : Nat) (h : run m s = .next u) : run (m + n) s = run n u := by
  induction m generalizing s with
  | zero => cases h; simp
  | succ m ih =>
    cases hs : step s with
    | next t => rw [Nat.succ_add, run_succ_of_next _ hs]; exact ih (by simpa [run, hs] using h)
    | fault f => simp [run, hs] at h
    | refused r => simp [run, hs] at h

theorem run_succ_cases {n : Nat} {s v : State} (h : run (n + 1) s = .next v) :
    ∃ u, step s = .next u ∧ run n u = .next v := by
  cases hs : step s with
  | next u => exact ⟨u, rfl, by simpa [run, hs] using h⟩
  | fault f => simp [run, hs] at h
  | refused r => simp [run, hs] at h

@[simp] theorem outputs_zero (s : State) : outputs 0 s = [] := rfl

theorem outputs_succ_of_next {s u : State} (n : Nat) (h : step s = .next u) :
    outputs (n + 1) s = u.txl :: outputs n u := by
  simp [outputs, h]

/-- The step outputs of a run are those of its first steps and then those of the rest. -/
theorem outputs_add_of_next {s u : State} (m n : Nat) (h : run m s = .next u) :
    outputs (m + n) s = outputs m s ++ outputs n u := by
  induction m generalizing s with
  | zero => cases h; simp
  | succ m ih =>
    obtain ⟨t, ht, hr⟩ := run_succ_cases h
    rw [Nat.succ_add, outputs_succ_of_next _ ht, outputs_succ_of_next _ ht, ih hr, List.cons_append]

/-- Any function with the equations of a core's run is that core's run. -/
theorem core_run_unique (M : Host.Core) (r : Nat → M.State → Host.Outcome M.State M.Fault M.Refusal)
    (zero : ∀ s, r 0 s = .next s)
    (succ : ∀ n s, r (n + 1) s = match M.step s with
      | .next t => r n t
      | .fault f => .fault f
      | .refused q => .refused q) (n : Nat) (s : M.State) : M.run n s = r n s := by
  induction n generalizing s with
  | zero => rw [zero, Host.Core.run]
  | succ n ih => rw [succ, Host.Core.run]; cases M.step s <;> simp [ih]

/-- The host's run of the core is the model's run. -/
theorem core_run_eq_run (n : Nat) (s : State) : Host.Core.run Sys2Proof.core n s = run n s := by
  refine core_run_unique Sys2Proof.core run (fun _ => rfl) (fun n s => (run.eq_2 s n).trans ?_) n s
  cases h : step s with
  | next t => rw [show Sys2Proof.core.step s = _ from h]
  | fault f => rw [show Sys2Proof.core.step s = _ from h]; rfl
  | refused r => rw [show Sys2Proof.core.step s = _ from h]; rfl

@[simp] theorem exchanges_nil : exchanges [] = [] := rfl

@[simp] theorem exchanges_cons (b : Byte) (bs : List Byte) :
    exchanges (b :: bs) = .xchg b :: exchanges bs := rfl

@[simp] theorem Device.bytesFrom_zero (d : Device) (t : Table) (i : Nat) : d.bytesFrom t i 0 = [] := rfl

theorem Device.bytesFrom_succ (d : Device) (t : Table) (i n : Nat) :
    d.bytesFrom t i (n + 1) = d.tables.byte t i :: d.bytesFrom t (i + 1) n := by
  simp only [Device.bytesFrom, List.range_succ_eq_map, List.map_cons, List.map_map, Nat.add_zero]
  congr 1
  apply List.map_congr_left
  intro k _
  simp only [Function.comp]
  congr 1
  omega

theorem Device.bytesFrom_concat (d : Device) (t : Table) (i n : Nat) :
    d.bytesFrom t i (n + 1) = d.bytesFrom t i n ++ [d.tables.byte t (i + n)] := by
  simp [Device.bytesFrom, List.range_succ]

end Sys2Proof.Machine
end

