-- ==== Sys2Proof/Tests/Slice0.lean ====
section
/-! SUPPORT. Tests of one step each, with expected results from spec/95_test_vectors.md, and a witness for
the hypotheses of each statement. -/

namespace Sys2Proof.Tests

open Sys2Proof Sys2Proof.Machine

/-! ### WellFormed: each check refuses an ill-formed term -/

theorem test_wf_fill_needs_streaming : (Instr.fill 0x00).wf .ext .awaitingCommand = false := by decide
theorem test_wf_status_needs_awaiting : Instr.status.wf .ext .streaming = false := by decide
theorem test_wf_rdsec_needs_awaiting : Instr.rdsec.wf .base .streaming = false := by decide
theorem test_wf_rdid_needs_awaiting : Instr.rdid.wf .ext .streaming = false := by decide
theorem test_wf_rdid_needs_ext : Instr.rdid.wf .base .awaitingCommand = false := by decide
theorem test_wf_unrec_needs_awaiting : (Instr.unrec 0x00).wf .base .streaming = false := by decide
theorem test_wf_unrec_refuses_opcodes :
    (Instr.unrec 0xD7).wf .base .awaitingCommand = false ∧
    (Instr.unrec 0x77).wf .base .awaitingCommand = false ∧
    (Instr.unrec 0x9F).wf .ext .awaitingCommand = false ∧
    (Instr.unrec 0x9F).wf .base .awaitingCommand = true := by decide

/-! ### Decoding: words written out from 30_encoding.md R43, R45; vectors of 95_test_vectors.md 2.1 -/

theorem test_decode_status :
    decode .base .awaitingCommand [0b11010111] = .ok (.status, []) ∧
    decode .ext .awaitingCommand [0b11010111] = .ok (.status, []) := by decide
theorem test_decode_rdsec :
    decode .base .awaitingCommand [0b01110111] = .ok (.rdsec, []) ∧
    decode .ext .awaitingCommand [0b01110111] = .ok (.rdsec, []) := by decide
theorem test_decode_rdid :
    decode .ext .awaitingCommand [0b10011111] = .ok (.rdid, []) ∧
    decode .base .awaitingCommand [0b10011111] = .ok (.unrec 0x9F, []) := by decide
theorem test_decode_fill :
    ∀ b ∈ [(0xD7 : Byte), 0x77, 0x9F, 0x00, 0xFF], classify .ext .streaming b = .fill b := by decide
theorem test_decode_unrec_neighbours :
    ∀ b ∈ [(0x00 : Byte), 0xFF, 0xD6, 0x57, 0x76, 0xF7, 0x9E, 0x1F, 0x8C, 0xEB, 0xEE, 0xF9],
      classify .ext .awaitingCommand b = .unrec b := by decide
theorem test_decode_no_byte : decode .ext .awaitingCommand [] = .error .noByte := by decide
theorem test_table_words :
    decodeTableWord 8 0xD7 = some .status ∧ decodeTableWord 8 0x77 = some .rdsec ∧
    decodeTableWord 8 0x9F = some .rdid ∧ decodeTableWord 8 0x00 = some (.unrec 0x00) := by decide

/-! ### Bits in time order: vectors of 95_test_vectors.md 2.7 -/

theorem test_bits_a1 : bitsOf 0xA1 = [true, false, true, false, false, false, false, true] := by decide
theorem test_codes :
    Mode.code .awaitingCommand = 0 ∧ Mode.code .streaming = 1 ∧
    Table.code .securityRegister = 0 ∧ Table.code .manufacturerId = 1 := by decide

/-! ### One step each, under the fixture of 95_test_vectors.md -/

/-- `SR_TEST` and `MID_TEST`. -/
def fixture (v : Variant) : Device :=
  { variant := v, unrecPolicy := .hold,
    tables :=
      { sr := (List.range 128).map fun j => (j + 3, BitVec.ofNat 8 (j + 3))
        mid := [(0, 0xA1), (1, 0xB2)] } }

/-- A state of the fixture with one event to come. -/
def at1 (v : Variant) (m : Mode) (sel : Table) (cur txl : Byte) (e : Event) : State :=
  { State.poweredUp (fixture v) sel cur txl with mode := m, script := [e] }

/-- The columns of the vectors after one step; none where the step stops. -/
def after (s : State) : Option (Mode × Table × Byte × Byte) :=
  match step s with
  | .next t => some (t.mode, t.selected, t.cur, t.txl)
  | .fault _ => none
  | .refused _ => none

theorem test_status_first :
    after (at1 .ext .awaitingCommand .securityRegister 238 0x5A (.xchg 0xD7)) =
      some (.awaitingCommand, .securityRegister, 238, 0x8C) := by decide
theorem test_status_keeps_manufacturer_selection :
    after (at1 .ext .awaitingCommand .manufacturerId 4 0x8C (.xchg 0xD7)) =
      some (.awaitingCommand, .manufacturerId, 4, 0x8C) := by decide
theorem test_rdsec_switches_table :
    after (at1 .ext .awaitingCommand .manufacturerId 4 0x01 (.xchg 0x77)) =
      some (.streaming, .securityRegister, 1, 0x00) := by decide
theorem test_rdid_switches_table :
    after (at1 .ext .awaitingCommand .securityRegister 131 0x82 (.xchg 0x9F)) =
      some (.streaming, .manufacturerId, 1, 0xA1) := by decide
theorem test_rdid_opcode_in_base_is_unrec :
    after (at1 .base .awaitingCommand .securityRegister 131 0x82 (.xchg 0x9F)) =
      some (.awaitingCommand, .securityRegister, 131, 0x82) := by decide
theorem test_unrec_after_desel :
    after (at1 .ext .awaitingCommand .securityRegister 5 0x04 (.xchg 0x01)) =
      some (.awaitingCommand, .securityRegister, 5, 0x04) := by decide
theorem test_fill_last_but_one :
    after (at1 .base .streaming .securityRegister 129 0x80 (.xchg 0xD7)) =
      some (.streaming, .securityRegister, 130, 0x81) := by decide
theorem test_fill_last :
    after (at1 .base .streaming .securityRegister 130 0x81 (.xchg 0x77)) =
      some (.awaitingCommand, .securityRegister, 131, 0x82) := by decide
theorem test_fill_last_manufacturer :
    after (at1 .ext .streaming .manufacturerId 3 0x00 (.xchg 0xA5)) =
      some (.awaitingCommand, .manufacturerId, 4, 0x00) := by decide
theorem test_fill_outside_table :
    after (at1 .base .streaming .securityRegister 131 0x00 (.xchg 0x00)) = none ∧
    after (at1 .ext .streaming .manufacturerId 4 0x00 (.xchg 0x00)) = none := by decide
theorem test_fill_base_ignores_sel :
    after (at1 .base .streaming .manufacturerId 4 0x00 (.xchg 0x00)) =
      some (.streaming, .securityRegister, 5, 0x04) := by decide
theorem test_desel_in_stream :
    after (at1 .ext .streaming .manufacturerId 2 0xB2 .desel) =
      some (.awaitingCommand, .manufacturerId, 2, 0xB2) := by decide
theorem test_reset_event_mode :
    (after (at1 .ext .streaming .manufacturerId 2 0xB2 .reset)).map (·.1) = some .awaitingCommand := by
  decide

/-- 95_test_vectors.md P4: the encoding of a host script. -/
theorem test_script_encoding :
    scriptBytes [.reset, .rdsec, .times 4 (.byte 0xFF), .desel, .status, .byte 0x00] =
      [0x77, 0xFF, 0xFF, 0xFF, 0xFF, 0xD7, 0x00] := by decide

/-- Each table word runs as the first instruction after reset. -/
theorem test_words_run_after_reset :
    step (State.reset.withFetchWord 8 0xD7) = exec .status (State.reset.shiftOut) ∧
    step (State.reset.withFetchWord 8 0x77) = exec .rdsec (State.reset.shiftOut) ∧
    step (State.reset.withFetchWord 8 0x9F) = exec .rdid (State.reset.shiftOut) ∧
    step (State.reset.withFetchWord 8 0x00) = exec (.unrec 0x00) (State.reset.shiftOut) :=
  ⟨rfl, rfl, rfl, rfl⟩

/-! ### Witnesses: the hypotheses of each statement met together -/

/-- A state of the fixture with given events to come. -/
def atN (v : Variant) (m : Mode) (cur : Byte) (es : List Event) : State :=
  { State.poweredUp (fixture v) .securityRegister cur 0x5A with mode := m, script := es }

/-- The same device under U4's guarded policy. -/
def guarded : State :=
  { State.poweredUp { fixture .ext with unrecPolicy := .anyValue } .securityRegister 1 0x5A with
    script := [] }

theorem witness_ClassifyFollowsOpcodeMap :
    ∃ rx : Byte, rx ≠ 0xD7 ∧ rx ≠ 0x77 ∧ rx ≠ 0x9F := ⟨0xFF, by decide⟩

theorem witness_DecodeOfEncodeGivesInstruction :
    (Instr.fill 0xFF).wf .base .streaming = true ∧ Instr.status.wf .base .awaitingCommand = true ∧
    Instr.rdsec.wf .ext .awaitingCommand = true ∧ Instr.rdid.wf .ext .awaitingCommand = true ∧
    (Instr.unrec 0x9F).wf .base .awaitingCommand = true := by decide

theorem witness_DecodedInstructionIsWellFormed :
    decode .base .awaitingCommand [0x9F, 0x00] = .ok (.unrec 0x9F, [0x00]) := by decide

theorem witness_LinkBitsRoundTrip :
    (List.replicate 8 true).length = 8 ∧ 0 < 8 ∧ 7 < 8 := by decide

theorem witness_SecurityRegisterContent :
    (fixture .base).srPayload 0 = 0x03 ∧ (fixture .base).srPayload 127 = 0x82 ∧
    tableRead (fixture .base) .securityRegister 2 = .ok 0x00 ∧
    tableRead (fixture .base) .securityRegister 131 = .error .tableIndex := ⟨rfl, rfl, rfl, rfl⟩

theorem witness_ManufacturerIdContent :
    (fixture .ext).variant = .ext ∧ (fixture .ext).midCode 1 = 0xB2 ∧ (fixture .base).variant = .base :=
  ⟨rfl, rfl, rfl⟩

theorem witness_NoEventWritesATable : ∃ u, run 2 (atN .ext .awaitingCommand 1 [.xchg 0x77, .reset]) = .next u :=
  ⟨_, rfl⟩

theorem witness_StatusReplyRepeatsOnTheLink :
    let s := atN .base .awaitingCommand 1 (.xchg 0xD7 :: exchanges [0x00, 0x9F] ++ [])
    s.mode = .awaitingCommand ∧ s.device.unrecPolicy = .hold ∧
      (∀ b ∈ [(0x00 : Byte), 0x9F], b ∉ s.device.variant.opcodes) ∧
      s.script = .xchg 0xD7 :: exchanges [0x00, 0x9F] ++ [] :=
  ⟨rfl, rfl, by decide, rfl⟩

theorem witness_SecurityRegisterReadCommand :
    (atN .base .awaitingCommand 0xEE [.xchg 0x77]).script = .xchg 0x77 :: [] ∧
    (atN .base .awaitingCommand 0xEE [.xchg 0x77]).mode = .awaitingCommand ∧
    (atN .ext .streaming 7 [.xchg 0x77]).mode = .streaming ∧
    (List.replicate 130 (0xAA : Byte)).length = 130 ∧
    (atN .ext .awaitingCommand 1 (.xchg 0x77 :: exchanges (List.replicate 130 0xAA) ++ [])).script =
      .xchg 0x77 :: exchanges (List.replicate 130 0xAA) ++ [] :=
  ⟨rfl, rfl, rfl, by simp, rfl⟩

theorem witness_RdidStartsTheManufacturerStream : (atN .ext .awaitingCommand 1 []).device.variant = .ext := rfl

theorem witness_RdidStopsAndIsNeverDecodedInBase :
    (atN .base .awaitingCommand 1 []).device.variant = .base := rfl

theorem witness_ManufacturerIdReadCommand :
    (atN .ext .streaming 1 []).mode = .streaming ∧
    (atN .base .awaitingCommand 1 []).device.variant = .base ∧
    let s := atN .ext .awaitingCommand 1 (.xchg 0x9F :: exchanges [0x00, 0xD7, 0xFF] ++ [])
    s.mode = .awaitingCommand ∧ s.device.variant = .ext ∧
      s.script = .xchg 0x9F :: exchanges [0x00, 0xD7, 0xFF] ++ [] :=
  ⟨rfl, rfl, rfl, rfl, rfl⟩

theorem witness_UnrecHoldsTheRegisters :
    (atN .ext .awaitingCommand 1 []).device.unrecPolicy = .hold ∧
    guarded.device.unrecPolicy = .anyValue := ⟨rfl, rfl⟩

theorem witness_UnrecognisedBytesRepeatTheStaleByte :
    let s := atN .ext .awaitingCommand 1 (exchanges [0x00, 0xFF] ++ [.desel])
    s.mode = .awaitingCommand ∧ s.device.unrecPolicy = .hold ∧
      (∀ b ∈ [(0x00 : Byte), 0xFF], b ∉ s.device.variant.opcodes) ∧
      s.script = exchanges [0x00, 0xFF] ++ [.desel] :=
  ⟨rfl, rfl, by decide, rfl⟩

theorem witness_BaseTreatsManufacturerOpcodeAsUnrecognised :
    let s := atN .base .awaitingCommand 1 [.xchg 0x9F]
    s.device.variant = .base ∧ s.device.unrecPolicy = .hold ∧ s.mode = .awaitingCommand ∧
      s.script = .xchg 0x9F :: [] := ⟨rfl, rfl, rfl, rfl⟩

theorem witness_FillLoadsTheByteAtTheCursor :
    (atN .base .streaming 130 []).mode = .streaming ∧
    (atN .base .streaming 130 []).cur.toNat < (atN .base .streaming 130 []).selected.length ∧
    (atN .base .streaming 131 []).selected.length ≤ (atN .base .streaming 131 []).cur.toNat := by decide

theorem witness_StreamEndsExactlyAtTheTableLength :
    let s := atN .base .streaming 129 (exchanges [0xD7, 0x77] ++ [.xchg 0x00])
    s.mode = .streaming ∧ s.cur.toNat < s.selected.length ∧
      s.cur.toNat + [(0xD7 : Byte), 0x77].length = s.selected.length ∧
      s.script = exchanges [0xD7, 0x77] ++ [.xchg 0x00] := by decide

theorem witness_StreamingIgnoresTheReceivedByte :
    ∃ u, (atN .base .streaming 130 [.xchg 0x00]).mode = .streaming ∧
      step (atN .base .streaming 130 [.xchg 0x00]) = .next u ∧ u.mode = .awaitingCommand :=
  ⟨_, rfl, rfl, rfl⟩

theorem witness_InstructionFrames :
    (∃ u, exec (.fill 0x00) (atN .ext .streaming 1 []) = .next u) ∧
    (∃ u, exec .status (atN .ext .awaitingCommand 1 []) = .next u) ∧
    (∃ u, exec .rdsec (atN .base .awaitingCommand 1 []) = .next u ∧
      (atN .base .awaitingCommand 1 []).device.variant = .base) ∧
    (∃ u, exec .rdid (atN .ext .awaitingCommand 1 []) = .next u) ∧
    (∃ u, exec (.unrec 0x00) (atN .ext .awaitingCommand 1 []) = .next u) :=
  ⟨⟨_, rfl⟩, ⟨_, rfl⟩, ⟨_, rfl, rfl⟩, ⟨_, rfl⟩, ⟨_, rfl⟩⟩

theorem witness_ModeIsWrittenOnlyByItsWriters :
    (∃ u, step (atN .ext .awaitingCommand 1 [.xchg 0x9F]) = .next u ∧ u.mode = .streaming) ∧
    (∃ u, step (atN .ext .streaming 1 [.desel]) = .next u ∧ u.mode = .awaitingCommand) :=
  ⟨⟨_, rfl, rfl⟩, ⟨_, rfl, rfl⟩⟩

/-- One step for each clause, the boundaries of `FILL` among them. -/
theorem witness_CursorMovesOnlyByReadsAndFills :
    (∃ u, step (atN .ext .awaitingCommand 9 []) = .next u ∧ u.cur = 9) ∧
    (∃ u, step (atN .ext .streaming 9 [.desel]) = .next u ∧ u.cur = 9) ∧
    (∃ u, step (atN .ext .streaming 130 [.xchg 0x77]) = .next u ∧ u.cur = 131) ∧
    (∃ u, step (atN .ext .awaitingCommand 9 [.xchg 0xD7]) = .next u ∧ u.cur = 9) ∧
    (∃ u, step (atN .base .awaitingCommand 9 [.xchg 0x77]) = .next u ∧ u.cur = 1) ∧
    (∃ u, step (atN .ext .awaitingCommand 9 [.xchg 0x9F]) = .next u ∧ u.cur = 1) ∧
    (∃ u, step (atN .base .awaitingCommand 9 [.xchg 0x9F]) = .next u ∧ u.cur = 9) :=
  ⟨⟨_, rfl, rfl⟩, ⟨_, rfl, rfl⟩, ⟨_, rfl, rfl⟩, ⟨_, rfl, rfl⟩, ⟨_, rfl, rfl⟩, ⟨_, rfl, rfl⟩, ⟨_, rfl, rfl⟩⟩

theorem witness_SelectedTableIsHeldThroughAStream :
    (∃ u, step (atN .ext .streaming 1 [.xchg 0x77]) = .next u ∧ u.mode = .streaming) ∧
    (∃ u, step (atN .base .awaitingCommand 1 [.xchg 0x77]) = .next u ∧ u.mode = .streaming) :=
  ⟨⟨_, rfl, rfl⟩, ⟨_, rfl, rfl⟩⟩

theorem witness_StepRunsTheDecodedByte :
    let s := atN .ext .awaitingCommand 1 [.xchg 0x9F]
    s.script = .xchg 0x9F :: [] ∧ decode s.device.variant s.mode [0x9F] = .ok (.rdid, []) := ⟨rfl, rfl⟩

theorem witness_StepWaitsWithoutAnEvent : State.reset.script = [] := rfl

theorem witness_ResetEventLeavesAwaitingCommand :
    (atN .ext .streaming 1 [.reset]).script = .reset :: [] := rfl

theorem witness_ResetEventDrawsTheUnspecifiedRegisters :
    (atN .base .streaming 1 [.reset, .xchg 0x00]).script = .reset :: [.xchg 0x00] := rfl

theorem witness_DeselForcesAwaitingCommand : (atN .ext .streaming 1 [.desel]).script = .desel :: [] := rfl

theorem witness_InterruptedStreamIsForgotten :
    let s := atN .ext .awaitingCommand 1
      (.xchg (readOpcode .manufacturerId) :: exchanges [0xFF, 0xFF] ++ .desel :: .xchg 0xD7 :: [])
    s.mode = .awaitingCommand ∧ tableExists s.device.variant .manufacturerId = true ∧
      [(0xFF : Byte), 0xFF].length + 1 < Table.length .manufacturerId ∧
      s.script = .xchg (readOpcode .manufacturerId) :: exchanges [0xFF, 0xFF] ++
        .desel :: .xchg 0xD7 :: [] := by decide

theorem witness_AbandonedStreamSwallowsBytes :
    let s := atN .base .awaitingCommand 1 []
    s.mode = .awaitingCommand ∧ tableExists s.device.variant .securityRegister = true ∧
      [(0xD7 : Byte)].length = [(0x00 : Byte)].length ∧
      (List.replicate 129 (0x00 : Byte)).length + [(0xD7 : Byte)].length + 1 ≤
        Table.length .securityRegister :=
  ⟨rfl, rfl, rfl, by simp [Table.length]⟩

theorem witness_LinkCarriesTheLatchOneExchangeLater :
    let s := atN .ext .awaitingCommand 1 (.xchg 0xD7 :: List.replicate 1 .desel ++ .xchg 0x00 :: [])
    ∃ u v, step s = .next u ∧ run 2 u = .next v := ⟨_, _, rfl, rfl⟩

theorem witness_FirstExchangesCarryTheResetDraw :
    let s := atN .ext .streaming 1 (.reset :: exchanges [0x00, 0xFF] ++ .xchg 0xD7 :: [])
    s.device.unrecPolicy = .hold ∧ (∀ x ∈ [(0x00 : Byte), 0xFF], x ∉ s.device.variant.opcodes) ∧
      s.script = .reset :: exchanges [0x00, 0xFF] ++ .xchg 0xD7 :: [] := ⟨rfl, by decide, rfl⟩

/-- 95_test_vectors.md 2.6, last row: the stream's last byte and `DESEL` sampled together. -/
theorem witness_SimultaneousEventsAreOrdered :
    let s := atN .base .streaming 130 []
    s.script = [] ∧ ∃ u, step (s.offer [.xchg 0x00]) = .next u ∧ u.cur = 131 ∧ u.txl = 0x82 :=
  ⟨rfl, _, rfl, rfl, rfl⟩

theorem witness_EightClocksAreOneExchange :
    ∃ (a : Adapter) (s u : State), a.selected = true ∧ a.captured = [] ∧
      step { s with script := .xchg 0x9F :: s.script } = .next u :=
  ⟨{ selected := true, captured := [], shifter := 0 }, atN .ext .awaitingCommand 1 [], _, rfl, rfl, rfl⟩

theorem witness_PartialByteIsDiscarded :
    let a : Adapter := { selected := true, captured := [], shifter := 0 }
    a.selected = true ∧ a.captured = [] ∧ (List.replicate 7 true).length < 8 ∧
      { a with selected := false }.selected = false := by decide

theorem witness_StepKeepsTheCursorInRange :
    ∃ u, (atN .ext .streaming 129 [.xchg 0x00]).cursorInRange ∧
      step (atN .ext .streaming 129 [.xchg 0x00]) = .next u ∧ u.mode = .streaming :=
  ⟨_, fun _ => by decide, rfl, rfl⟩

theorem witness_NoReachableStateFaults : ∃ s, Reachable s ∧ s.mode = .streaming :=
  ⟨_, .step _ _ (.offer _ [.xchg 0x77] (.poweredUp (fixture .ext) .securityRegister 1 0x5A)) rfl, rfl⟩

theorem witness_HostRegainsAwaitingCommand :
    let s := atN .ext .streaming 1 (exchanges (List.replicate 130 0x00) ++ [])
    s.cursorInRange ∧ (List.replicate 130 (0x00 : Byte)).length = 130 ∧
      (∀ b ∈ List.replicate 130 (0x00 : Byte),
        b ≠ 0x77 ∧ (s.device.variant = .ext → b ≠ 0x9F)) ∧
      s.script = exchanges (List.replicate 130 0x00) ++ [] :=
  ⟨fun _ => by decide, by simp, by simp, rfl⟩

theorem witness_BaseNeverShowsManufacturerId :
    ∃ u, (atN .base .awaitingCommand 1 [.xchg 0x77, .xchg 0x9F]).device.variant = .base ∧
      run 2 (atN .base .awaitingCommand 1 [.xchg 0x77, .xchg 0x9F]) = .next u := ⟨_, rfl, rfl⟩

end Sys2Proof.Tests
end

section
/-! PROOFS. The writers of `MODE` (10_state.md R15, R21): what each meaning leaves in it, then one
exchange by the mode it was received in. -/

namespace Sys2Proof.Machine

/-! ### `MODE` after each meaning -/

theorem startStream_mode {t : Table} {s u : State} (h : startStream t s = .next u) :
    u.mode = .streaming := by
  obtain ⟨-, rfl⟩ := startStream_cases h
  simp

theorem execUnrec_mode {rx : Byte} {s u : State} (h : execUnrec rx s = .next u) : u.mode = s.mode := by
  obtain ⟨-, rfl⟩ | ⟨-, rfl⟩ := execUnrec_cases h
  · rfl
  · simp

/-- One past a cursor inside the table the stream goes on exactly short of the table's length (R57). -/
theorem modeAtCursor_succ_eq_streaming_iff {t : Table} {c : Byte} (h : c.toNat < t.length) :
    modeAtCursor t (c + 1) .streaming = .streaming ↔ c.toNat + 1 ≠ t.length := by
  rw [← cursor_succ c t h]
  by_cases hc : (c + 1).toNat = t.length
  · exact iff_of_false (by rw [modeAtCursor_end _ _ _ hc]; decide) (not_not_intro hc)
  · exact iff_of_true (modeAtCursor_more _ _ _ hc) hc

theorem streamByte_mode_iff {s u : State} (hm : s.mode = .streaming) (h : streamByte s = .next u) :
    u.mode = .streaming ↔ s.cur.toNat + 1 ≠ s.selected.length := by
  obtain ⟨hc, rfl⟩ := streamByte_cases h
  rw [State.setMode_mode, hm]
  exact modeAtCursor_succ_eq_streaming_iff hc

/-! ### `MODE` after one exchange -/

theorem step_xchg_mode_of_streaming {s u : State} {rx : Byte} {rest : List Event}
    (hm : s.mode = .streaming) (hs : s.script = .xchg rx :: rest) (h : step s = .next u) :
    u.mode = .streaming ↔ s.cur.toNat + 1 ≠ s.selected.length := by
  rw [step_xchg hs, classOf_streaming hm, exec_fill] at h
  exact streamByte_mode_iff (s := (s.setScript rest).shiftOut) hm h

/-- In `AwaitingCommand` the opcodes of R51 and R52, the second in EXT only, are the ones that enter
`Streaming`. -/
theorem step_xchg_mode_of_awaiting {s u : State} {rx : Byte} {rest : List Event}
    (hm : s.mode = .awaitingCommand) (hs : s.script = .xchg rx :: rest) (h : step s = .next u) :
    u.mode = .streaming ↔ rx = 0x77 ∨ (rx = 0x9F ∧ s.device.variant = .ext) := by
  rw [step_xchg hs] at h
  obtain ⟨rfl, hi⟩ | ⟨rfl, hi⟩ | ⟨rfl, hv, hi⟩ | ⟨-, hsec, hid, hi⟩ := classOf_awaiting_cases hm rx
  · rw [hi, exec_status] at h
    obtain rfl := execStatus_cases h
    simp [hm]
  · rw [hi, exec_rdsec] at h
    simp [startStream_mode h]
  · rw [hi, exec_rdid] at h
    simp [startStream_mode h, hv]
  · rw [hi, exec_unrec] at h
    exact iff_of_false (by simp [execUnrec_mode h, hm]) (not_or_intro hsec hid)

/-! ### The obligations -/

/-- Settles O27: by the event the step took, an exchange by the mode it was received in. -/
theorem modeIsWrittenOnlyByItsWriters : Obligations.ModeIsWrittenOnlyByItsWriters := by
  intro s u h
  obtain ⟨hs, rfl⟩ | ⟨rest, hs, rfl⟩ | ⟨rest, hs, rfl⟩ | ⟨rx, rest, hs, -⟩ := step_cases h
  · simp [hs]
  · simp [hs]
  · simp [hs]
  · cases hm : s.mode with
    | awaitingCommand => simp [hs, step_xchg_mode_of_awaiting hm hs h]
    | streaming => simp [hs, step_xchg_mode_of_streaming hm hs h]

/-- Settles O32: the step is `onReset`, whose field lemmas give the three conjuncts. -/
theorem resetEventLeavesAwaitingCommand : Obligations.ResetEventLeavesAwaitingCommand := by
  intro s rest hs
  exact ⟨_, step_reset hs, onReset_mode _, by simp, by simp⟩

end Sys2Proof.Machine
end

section
/-! PROOFS. No event writes a table (20_memory.md R32): the built device, in which the tables stand, is in the
frame of every meaning, so of every step and of every run. -/

namespace Sys2Proof.Machine

theorem exec_device {i : Instr} {s u : State} (h : exec i s = .next u) : u.device = s.device := by
  obtain ⟨rx, -, -, rfl⟩ | ⟨-, rfl⟩ | ⟨t, -, -, rfl⟩ | ⟨rx, -, -, rfl⟩ | ⟨rx, -, -, rfl⟩ := exec_cases h
  · simp
  · simp
  · simp
  · rfl
  · simp

theorem step_device {s u : State} (h : step s = .next u) : u.device = s.device := by
  obtain ⟨-, rfl⟩ | ⟨rest, -, rfl⟩ | ⟨rest, -, rfl⟩ | ⟨rx, rest, -, hx⟩ := step_cases h
  · rfl
  · simp
  · simp
  · simpa using exec_device hx

theorem run_device {n : Nat} {s u : State} (h : run n s = .next u) : u.device = s.device := by
  induction n generalizing s with
  | zero => cases h; rfl
  | succ n ih =>
    obtain ⟨t, hstep, hrun⟩ := run_succ_cases h
    exact (ih hrun).trans (step_device hstep)

/-- Settles O12: a read is a function of the device, the table and the index, and a run keeps the device. -/
theorem noEventWritesATable : Obligations.NoEventWritesATable := by
  intro n s u h
  have hd : u.device = s.device := run_device h
  exact ⟨hd, fun t i => by rw [hd]⟩

end Sys2Proof.Machine
end

section
/-! PROOFS. The opcode map (30_encoding.md R41): one equation for each class of received byte, and the opcodes'
bits on the link (R43). -/

namespace Sys2Proof

/-! ### The class of a byte, by variant and mode -/

@[simp] theorem classify_streaming (v : Variant) (rx : Byte) : classify v .streaming rx = .fill rx := rfl

theorem classify_status (v : Variant) : classify v .awaitingCommand 0xD7 = .status := rfl

theorem classify_rdsec (v : Variant) : classify v .awaitingCommand 0x77 = .rdsec := rfl

theorem classify_rdid : classify .ext .awaitingCommand 0x9F = .rdid := rfl

/-- What is none of the variant's opcodes is `UNREC` (R45); `0x9F` is no opcode in BASE. -/
theorem classify_unrec {v : Variant} {rx : Byte} (hstatus : rx ≠ 0xD7) (hrdsec : rx ≠ 0x77)
    (hrdid : ¬(rx = 0x9F ∧ v = .ext)) : classify v .awaitingCommand rx = .unrec rx := by
  rw [classify, if_neg (by decide), if_neg hstatus, if_neg hrdsec, if_neg hrdid]

theorem decode_cons (v : Variant) (m : Mode) (rx : Byte) (rest : List Byte) :
    decode v m (rx :: rest) = .ok (classify v m rx, rest) := rfl

/-! ### The opcodes and the status reply, most significant bit first -/

theorem byteOf_statusBits : Machine.byteOf [true, true, false, true, false, true, true, true] = 0xD7 := by
  decide

theorem byteOf_rdsecBits : Machine.byteOf [false, true, true, true, false, true, true, true] = 0x77 := by
  decide

theorem byteOf_rdidBits : Machine.byteOf [true, false, false, true, true, true, true, true] = 0x9F := by
  decide

theorem bitsOf_statusByte :
    Machine.bitsOf Machine.statusByte = [true, false, false, false, true, true, false, false] := by
  decide

/-! ### The obligations -/

/-- Settles O1: the equation of each class; in BASE `0x9F` is classed with the bytes that are no opcode. -/
theorem classifyFollowsOpcodeMap : Obligations.ClassifyFollowsOpcodeMap := by
  intro v
  refine ⟨classify_streaming v, classify_status v, classify_rdsec v, ?ext, ?base, ?other⟩
  case ext =>
    rintro rfl
    exact classify_rdid
  case base =>
    rintro rfl
    exact classify_unrec (by decide) (by decide) (by decide)
  case other =>
    intro rx hstatus hrdsec hrdid
    exact classify_unrec hstatus hrdsec fun h => hrdid h.1

/-- Settles O6: each opcode's bits are its byte, which decodes by its class and is what `encode` sends. -/
theorem opcodeBitsOnTheLink : Obligations.OpcodeBitsOnTheLink := by
  unfold Obligations.OpcodeBitsOnTheLink
  rw [byteOf_statusBits, byteOf_rdsecBits, byteOf_rdidBits]
  refine ⟨fun v => ⟨?status, ?rdsec⟩, ?rdid, rfl, rfl, rfl, bitsOf_statusByte⟩
  case status => rw [decode_cons, classify_status]
  case rdsec => rw [decode_cons, classify_rdsec]
  case rdid => rw [decode_cons, classify_rdid]

end Sys2Proof
end

section
/-! PROOFS. The received byte in `Streaming` (43_streaming.md R58): an exchange streams the byte under the
cursor whatever comes in, and the stream is left by the count, `DESEL` or `RESET` alone. -/

namespace Sys2Proof.Machine

/-- What an exchange does in `Streaming`, the fault of a cursor outside the table included: the received
byte is not in it. -/
theorem step_xchg_of_streaming {s : State} {rx : Byte} {rest : List Event} (hm : s.mode = .streaming)
    (hs : s.script = .xchg rx :: rest) : step s = streamByte (s.setScript rest).shiftOut := by
  rw [step_xchg hs, classOf_streaming hm, exec_fill]

/-- The exchange that leaves `Streaming` is the one that brings the cursor to the table's length (R57). -/
theorem step_xchg_leaves_streaming {s u : State} {rx : Byte} {rest : List Event} (hm : s.mode = .streaming)
    (hs : s.script = .xchg rx :: rest) (h : step s = .next u) (hu : u.mode = .awaitingCommand) :
    s.cur.toNat + 1 = s.selected.length := by
  by_contra hc
  have hstays : u.mode = .streaming := (step_xchg_mode_of_streaming hm hs h).mpr hc
  exact absurd (hu.symm.trans hstays) (by decide)

/-- Settles O25: both exchanges are the one `streamByte`; what leaves is read off the event the step took. -/
theorem streamingIgnoresTheReceivedByte : Obligations.StreamingIgnoresTheReceivedByte := by
  intro s hm
  refine ⟨classOf_streaming hm, ?content, ?leaves⟩
  case content =>
    intro a b rest
    have hstep (rx : Byte) :
        step { s with script := .xchg rx :: rest } = streamByte (s.setScript rest).shiftOut :=
      step_xchg_of_streaming (s := { s with script := .xchg rx :: rest }) hm rfl
    exact (hstep a).trans (hstep b).symm
  case leaves =>
    intro u h hu
    obtain ⟨-, rfl⟩ | ⟨rest, hs, -⟩ | ⟨rest, hs, -⟩ | ⟨rx, rest, hs, -⟩ := step_cases h
    · exact absurd (hu.symm.trans hm) (by decide)
    · exact .inl ⟨rest, hs⟩
    · exact .inr (.inl ⟨rest, hs⟩)
    · exact .inr (.inr ⟨rx, rest, hs, step_xchg_leaves_streaming hm hs h hu⟩)

end Sys2Proof.Machine
end

section
/-! PROOFS. Decode and encode (30_encoding.md): a byte's class is well-formed and encodes to the byte, and it is the
only instruction that does (R41). -/

namespace Sys2Proof

/-- The bytes that are none of the variant's opcodes. -/
theorem not_mem_opcodes_iff (v : Variant) (rx : Byte) :
    rx ∉ v.opcodes ↔ rx ≠ 0xD7 ∧ rx ≠ 0x77 ∧ ¬(rx = 0x9F ∧ v = .ext) := by
  cases v <;> simp [Variant.opcodes]

theorem wf_unrec_iff (v : Variant) (m : Mode) (rx : Byte) :
    (Instr.unrec rx).wf v m = true ↔ m = .awaitingCommand ∧ rx ∉ v.opcodes := by
  simp [Instr.wf]

theorem classify_of_not_mem_opcodes {v : Variant} {rx : Byte} (h : rx ∉ v.opcodes) :
    classify v .awaitingCommand rx = .unrec rx := by
  obtain ⟨hstatus, hrdsec, hrdid⟩ := (not_mem_opcodes_iff v rx).mp h
  exact classify_unrec hstatus hrdsec hrdid

/-- In `AwaitingCommand` a byte is an opcode of the variant or `UNREC` (R41). -/
theorem classify_awaiting_cases (v : Variant) (rx : Byte) :
    (rx = 0xD7 ∧ classify v .awaitingCommand rx = .status) ∨
    (rx = 0x77 ∧ classify v .awaitingCommand rx = .rdsec) ∨
    (rx = 0x9F ∧ v = .ext ∧ classify v .awaitingCommand rx = .rdid) ∨
    (rx ∉ v.opcodes ∧ classify v .awaitingCommand rx = .unrec rx) := by
  by_cases hx : rx ∈ v.opcodes
  · cases v with
    | base =>
      obtain rfl | rfl : rx = 0xD7 ∨ rx = 0x77 := by simpa [Variant.opcodes] using hx
      · exact .inl ⟨rfl, rfl⟩
      · exact .inr (.inl ⟨rfl, rfl⟩)
    | ext =>
      obtain rfl | rfl | rfl : rx = 0xD7 ∨ rx = 0x77 ∨ rx = 0x9F := by simpa [Variant.opcodes] using hx
      · exact .inl ⟨rfl, rfl⟩
      · exact .inr (.inl ⟨rfl, rfl⟩)
      · exact .inr (.inr (.inl ⟨rfl, rfl, rfl⟩))
  · exact .inr (.inr (.inr ⟨hx, classify_of_not_mem_opcodes hx⟩))

/-- A byte's class encodes to the byte and is well-formed where it was classed. -/
theorem encode_wf_classify (v : Variant) (m : Mode) (rx : Byte) :
    encode (classify v m rx) = [rx] ∧ (classify v m rx).wf v m = true := by
  cases m with
  | streaming => exact ⟨rfl, rfl⟩
  | awaitingCommand =>
    obtain ⟨rfl, hi⟩ | ⟨rfl, hi⟩ | ⟨rfl, rfl, hi⟩ | ⟨hx, hi⟩ := classify_awaiting_cases v rx
    · exact ⟨rfl, rfl⟩
    · exact ⟨rfl, rfl⟩
    · exact ⟨rfl, rfl⟩
    · rw [hi]
      exact ⟨rfl, (wf_unrec_iff v _ rx).mpr ⟨rfl, hx⟩⟩

@[simp] theorem encode_classify (v : Variant) (m : Mode) (rx : Byte) : encode (classify v m rx) = [rx] :=
  (encode_wf_classify v m rx).1

theorem wf_classify (v : Variant) (m : Mode) (rx : Byte) : (classify v m rx).wf v m = true :=
  (encode_wf_classify v m rx).2

theorem classify_eq_unrec_iff (v : Variant) (rx : Byte) :
    classify v .awaitingCommand rx = .unrec rx ↔ rx ∉ v.opcodes := by
  refine ⟨fun h => ?_, classify_of_not_mem_opcodes⟩
  have hwf := wf_classify v .awaitingCommand rx
  rw [h, wf_unrec_iff] at hwf
  exact hwf.2

/-- A well-formed instruction is the class of the one byte it encodes to. -/
theorem classify_of_encode {v : Variant} {m : Mode} {i : Instr} {rx : Byte} (hwf : i.wf v m = true)
    (he : encode i = [rx]) : classify v m rx = i := by
  cases i with
  | fill b => simp_all [Instr.wf, encode]
  | status =>
    obtain rfl : 0xD7 = rx := by simpa [encode] using he
    obtain rfl : m = .awaitingCommand := by simpa [Instr.wf] using hwf
    exact classify_status v
  | rdsec =>
    obtain rfl : 0x77 = rx := by simpa [encode] using he
    obtain rfl : m = .awaitingCommand := by simpa [Instr.wf] using hwf
    exact classify_rdsec v
  | rdid =>
    obtain rfl : 0x9F = rx := by simpa [encode] using he
    obtain ⟨rfl, rfl⟩ : m = .awaitingCommand ∧ v = .ext := by simpa [Instr.wf] using hwf
    exact classify_rdid
  | unrec b =>
    obtain rfl : b = rx := by simpa [encode] using he
    obtain ⟨rfl, hb⟩ := (wf_unrec_iff v m b).mp hwf
    exact classify_of_not_mem_opcodes hb

/-! ### The obligations -/

/-- Settles O2: an instruction is one byte (R48), and is that byte's class. -/
theorem decodeOfEncodeGivesInstruction : Obligations.DecodeOfEncodeGivesInstruction := by
  intro v m i rest hwf
  obtain ⟨rx, he⟩ : ∃ rx, encode i = [rx] := by cases i <;> exact ⟨_, rfl⟩
  rw [he, List.singleton_append, decode_cons, classify_of_encode hwf he]

/-- Settles O3: the decoder refuses nothing but the absence of a byte, and yields the first byte's class. -/
theorem decodedInstructionIsWellFormed : Obligations.DecodedInstructionIsWellFormed := by
  intro v m bytes
  cases bytes with
  | nil => simp [decode]
  | cons rx rest =>
    rw [decode_cons]
    refine ⟨by simp, ?_⟩
    rintro i left h
    obtain ⟨rfl, rfl⟩ : classify v m rx = i ∧ rest = left := by simpa using h
    exact ⟨wf_classify v m rx, by simp⟩

/-- Settles O4: the instruction is the byte's class. -/
theorem everyByteHasExactlyOneClass : Obligations.EveryByteHasExactlyOneClass := by
  intro v m rx
  refine ⟨classify v m rx, ⟨wf_classify v m rx, encode_classify v m rx⟩, ?_⟩
  rintro i ⟨hwf, he⟩
  exact (classify_of_encode hwf he).symm

/-- Settles O5: what is counted are the bytes that are none of the variant's two or three opcodes. -/
theorem unrecognisedValueCounts : Obligations.UnrecognisedValueCounts := by
  simp only [Obligations.UnrecognisedValueCounts, classify_eq_unrec_iff]
  decide +kernel

end Sys2Proof
end

section
/-! PROOFS. The notation for host scripts (30_encoding.md R47): repetition, and the encoding of a concatenation. -/

namespace Sys2Proof.Machine

theorem Token.events_times_succ (n : Nat) (tok : Token) :
    (Token.times (n + 1) tok).events = tok.events ++ (Token.times n tok).events := by
  simp only [Token.events, List.replicate_succ, List.flatten_cons]

theorem scriptEvents_append (toks toks' : List Token) :
    scriptEvents (toks ++ toks') = scriptEvents toks ++ scriptEvents toks' := by
  simp only [scriptEvents, List.map_append, List.flatten_append]

theorem scriptBytes_append (toks toks' : List Token) :
    scriptBytes (toks ++ toks') = scriptBytes toks ++ scriptBytes toks' := by
  simp only [scriptBytes, scriptEvents_append, List.map_append, List.flatten_append]

/-- Settles O8: one event to a token, repetition by its successor, and concatenation. -/
theorem hostScriptTokensAreEvents : Obligations.HostScriptTokensAreEvents :=
  ⟨rfl, rfl, rfl, rfl, rfl, fun _ => ⟨rfl, rfl⟩, fun _ => rfl, Token.events_times_succ, scriptBytes_append, rfl⟩

end Sys2Proof.Machine
end

section
/-! PROOFS. The state after a read command has started a stream and after one byte of it (41_table_read_commands.md
R51, R52, 43_streaming.md R55), as functions of the state with one lemma per field. -/

namespace Sys2Proof.Machine

/-- `s` with the stream of `t` started: its first byte in `TXL`, the cursor behind it. -/
def State.started (s : State) (t : Table) : State :=
  (((s.queueTransmit (s.device.tables.byte t 0)).setMode .streaming).writeSel t).setCur 1

@[simp] theorem State.started_mode (s : State) (t : Table) : (s.started t).mode = .streaming := by
  simp [State.started]
@[simp] theorem State.started_cur (s : State) (t : Table) : (s.started t).cur = 1 := rfl
@[simp] theorem State.started_txl (s : State) (t : Table) :
    (s.started t).txl = s.device.tables.byte t 0 := by simp [State.started]
@[simp] theorem State.started_device (s : State) (t : Table) : (s.started t).device = s.device := by
  simp [State.started]
@[simp] theorem State.started_script (s : State) (t : Table) : (s.started t).script = s.script := by
  simp [State.started]
@[simp] theorem State.started_wire (s : State) (t : Table) : (s.started t).wire = s.wire := by
  simp [State.started]
@[simp] theorem State.started_draws (s : State) (t : Table) : (s.started t).draws = s.draws := by
  simp [State.started]

@[simp] theorem State.started_sel (s : State) (t : Table) :
    (s.started t).sel = match s.device.variant with
      | .base => s.sel
      | .ext => t :=
  State.writeSel_sel ((s.queueTransmit (s.device.tables.byte t 0)).setMode .streaming) t

theorem State.started_selected (s : State) (t : Table) (h : tableExists s.device.variant t = true) :
    (s.started t).selected = t :=
  State.selected_writeSel ((s.queueTransmit (s.device.tables.byte t 0)).setMode .streaming) t h

theorem startStream_eq_started {t : Table} {s : State} (h : tableExists s.device.variant t = true) :
    startStream t s = .next (s.started t) := startStream_next t s h

theorem eq_started_of_startStream {t : Table} {s u : State} (h : startStream t s = .next u) :
    tableExists s.device.variant t = true ∧ u = s.started t := startStream_cases h

/-- `s` with the byte under the cursor put out, the mode by the count (R57). -/
def State.filled (s : State) : State :=
  ((s.queueTransmit (s.device.tables.byte s.selected s.cur.toNat)).setCur (s.cur + 1)).setMode
    (modeAtCursor s.selected (s.cur + 1) s.mode)

@[simp] theorem State.filled_mode (s : State) :
    s.filled.mode = modeAtCursor s.selected (s.cur + 1) s.mode := rfl
@[simp] theorem State.filled_sel (s : State) : s.filled.sel = s.sel := rfl
@[simp] theorem State.filled_cur (s : State) : s.filled.cur = s.cur + 1 := rfl
@[simp] theorem State.filled_txl (s : State) :
    s.filled.txl = s.device.tables.byte s.selected s.cur.toNat := rfl
@[simp] theorem State.filled_device (s : State) : s.filled.device = s.device := rfl
@[simp] theorem State.filled_script (s : State) : s.filled.script = s.script := rfl
@[simp] theorem State.filled_wire (s : State) : s.filled.wire = s.wire := rfl
@[simp] theorem State.filled_draws (s : State) : s.filled.draws = s.draws := rfl
@[simp] theorem State.filled_selected (s : State) : s.filled.selected = s.selected := rfl

theorem streamByte_eq_filled {s : State} (h : s.cur.toNat < s.selected.length) :
    streamByte s = .next s.filled := streamByte_next s h

theorem eq_filled_of_streamByte {s u : State} (h : streamByte s = .next u) :
    s.cur.toNat < s.selected.length ∧ u = s.filled := streamByte_cases h

/-- The mode by the count, said of the cursor before the increment. -/
theorem State.filled_mode_eq {s : State} (h : s.cur.toNat < s.selected.length) :
    s.filled.mode = if s.cur.toNat + 1 = s.selected.length then .awaitingCommand else s.mode := by
  rw [State.filled_mode, modeAtCursor, cursor_succ s.cur s.selected h]

theorem State.filled_cur_toNat {s : State} (h : s.cur.toNat < s.selected.length) :
    s.filled.cur.toNat = s.cur.toNat + 1 := cursor_succ s.cur s.selected h

end Sys2Proof.Machine
end

section
/-! PROOFS. The cursor invariant (10_state.md R23): every meaning keeps it, so every step does. -/

namespace Sys2Proof.Machine

theorem cursorInRange_of_awaiting {s : State} (h : s.mode = .awaitingCommand) : s.cursorInRange :=
  fun hm => absurd (h.symm.trans hm) (by decide)

theorem started_cursorInRange {s : State} {t : Table} (h : tableExists s.device.variant t = true) :
    (s.started t).cursorInRange := by
  intro _
  rw [State.started_cur, State.started_selected s t h]
  exact ⟨Nat.le_refl 1, t.one_lt_length⟩

/-- Past the byte under the cursor the stream goes on only short of the table's end (R57). -/
theorem filled_cursorInRange {s : State} (h : s.cur.toNat < s.selected.length) : s.filled.cursorInRange := by
  intro hm
  rw [State.filled_mode_eq h] at hm
  have hmore : s.cur.toNat + 1 ≠ s.selected.length := fun hend => by simp [hend] at hm
  rw [State.filled_cur_toNat h, State.filled_selected]
  omega

theorem startStream_cursorInRange {t : Table} {s u : State} (h : startStream t s = .next u) :
    u.cursorInRange := by
  obtain ⟨he, rfl⟩ := eq_started_of_startStream h
  exact started_cursorInRange he

theorem exec_keeps_cursorInRange {i : Instr} {s u : State} (hr : s.cursorInRange)
    (h : exec i s = .next u) : u.cursorInRange := by
  cases i with
  | fill rx =>
    obtain ⟨hc, rfl⟩ := eq_filled_of_streamByte ((exec_fill rx s).symm.trans h)
    exact filled_cursorInRange hc
  | status => obtain rfl := execStatus_cases h; exact hr
  | rdsec => exact startStream_cursorInRange ((exec_rdsec s).symm.trans h)
  | rdid => exact startStream_cursorInRange ((exec_rdid s).symm.trans h)
  | unrec rx => obtain ⟨-, rfl⟩ | ⟨-, rfl⟩ := execUnrec_cases (rx := rx) h <;> exact hr

theorem step_keeps_cursorInRange {s u : State} (hr : s.cursorInRange) (h : step s = .next u) :
    u.cursorInRange := by
  obtain ⟨-, rfl⟩ | ⟨rest, -, rfl⟩ | ⟨rest, -, rfl⟩ | ⟨rx, rest, -, hx⟩ := step_cases h
  · exact hr
  · exact cursorInRange_of_awaiting (onReset_mode _)
  · exact cursorInRange_of_awaiting (onDesel_mode _)
  · exact exec_keeps_cursorInRange (s := (s.setScript rest).shiftOut) hr hx

/-- Settles O43: a meaning keeps it, and the two events that write `MODE` leave `AwaitingCommand`. -/
theorem stepKeepsTheCursorInRange : Obligations.StepKeepsTheCursorInRange :=
  fun _ _ => step_keeps_cursorInRange

end Sys2Proof.Machine
end

section
/-! PROOFS. The tables (20_memory.md R27, R28, R30, R31): which reads answer, and what they answer. -/

namespace Sys2Proof.Machine

theorem tableExists_iff (v : Variant) (t : Table) :
    tableExists v t = true ↔ (t = .manufacturerId → v = .ext) := by
  cases v <;> cases t <;> decide

theorem tableRead_ok_iff (d : Device) (t : Table) (i : Nat) :
    (∃ b, tableRead d t i = .ok b) ↔ tableExists d.variant t = true ∧ i < t.length := by
  obtain ⟨he, hi, hr⟩ | ⟨hn, hr⟩ := tableRead_cases d t i
  · exact iff_of_true ⟨_, hr⟩ ⟨he, hi⟩
  · exact iff_of_false (by simp [hr]) hn

theorem tableRead_error_iff (d : Device) (t : Table) (i : Nat) :
    tableRead d t i = .error .tableIndex ↔ ¬(tableExists d.variant t = true ∧ i < t.length) := by
  obtain ⟨he, hi, hr⟩ | ⟨hn, hr⟩ := tableRead_cases d t i
  · exact iff_of_false (by simp [hr]) (not_not_intro ⟨he, hi⟩)
  · exact iff_of_true hr hn

/-- Behind the header `SecurityRegister` is the payload (R27). -/
theorem byte_srPayload (d : Device) {j : Nat} (h : j ≤ 127) :
    d.tables.byte .securityRegister (3 + j) = d.srPayload j := by
  have hp : payloadIndex .securityRegister (3 + j) = true := by simp [payloadIndex]; omega
  simp [Memory.byte, hp, Memory.cells, unlistedByte, Device.srPayload]

/-- `ManufacturerId` begins with the code bytes (R28). -/
theorem byte_midCode (d : Device) {j : Nat} (h : j < 2) :
    d.tables.byte .manufacturerId j = d.midCode j := by
  have hp : payloadIndex .manufacturerId j = true := by simp [payloadIndex, h]
  simp [Memory.byte, hp, Memory.cells, unlistedByte, Device.midCode, h]

/-- Behind the code bytes `ManufacturerId` is zero whatever the image lists (R28). -/
theorem Memory.byte_midTrailer (m : Memory) {i : Nat} (h : 2 ≤ i) : m.byte .manufacturerId i = 0x00 := by
  have hp : payloadIndex .manufacturerId i = false := decide_eq_false (Nat.not_lt.mpr h)
  simp [Memory.byte, hp, unlistedByte, Nat.not_lt.mpr h]

/-! ### Reads of each table -/

theorem tableRead_sr (d : Device) {i : Nat} (h : i < 131) :
    tableRead d .securityRegister i = .ok (d.tables.byte .securityRegister i) :=
  tableRead_ok d .securityRegister i rfl h

theorem tableRead_mid {d : Device} (hv : d.variant = .ext) {i : Nat} (h : i < 4) :
    tableRead d .manufacturerId i = .ok (d.tables.byte .manufacturerId i) :=
  tableRead_ok d .manufacturerId i (by rw [hv]; rfl) h

theorem tableExists_mid_base {v : Variant} (hv : v = .base) : tableExists v .manufacturerId = false := by
  rw [hv]; rfl

theorem tableRead_mid_base {d : Device} (hv : d.variant = .base) (i : Nat) :
    tableRead d .manufacturerId i = .error .tableIndex :=
  tableRead_error d .manufacturerId i (by simp [tableExists_mid_base hv])

/-! ### The obligations -/

/-- Settles O11: the contract of `TableRead` is existence and range, and off it the read is the one fault. -/
theorem tableReadAnswersOnItsDomainOnly : Obligations.TableReadAnswersOnItsDomainOnly := by
  intro d t i
  rw [tableRead_ok_iff, tableRead_error_iff, tableExists_iff]
  refine ⟨and_comm, ?_⟩
  cases hv : d.variant <;> cases t <;> simp

/-- Settles O9: the header, the payload, and the reads beyond the table. -/
theorem securityRegisterContent : Obligations.SecurityRegisterContent := by
  intro d
  refine ⟨rfl, ?header, ?payload, ?beyond⟩
  case header =>
    intro i hi
    rw [tableRead_sr d (by omega), Memory.byte_header _ i hi]
  case payload =>
    intro j hj
    rw [tableRead_sr d (by omega), byte_srPayload d hj]
  case beyond =>
    intro i hi
    exact tableRead_error d .securityRegister i fun h => Nat.not_lt.mpr hi h.2

/-- Settles O10: the code bytes and the trailer in EXT; in BASE the table does not exist. -/
theorem manufacturerIdContent : Obligations.ManufacturerIdContent := by
  intro d
  refine ⟨rfl, fun hv => ⟨?_, ?_, ?_, ?_⟩, tableRead_mid_base⟩
  · rw [tableRead_mid hv (by decide), byte_midCode d (by decide)]
  · rw [tableRead_mid hv (by decide), byte_midCode d (by decide)]
  · rw [tableRead_mid hv (by decide), Memory.byte_midTrailer _ (by decide)]
  · rw [tableRead_mid hv (by decide), Memory.byte_midTrailer _ (by decide)]

end Sys2Proof.Machine
end

section
/-! PROOFS. What each meaning and each event leaves, as the whole next state. -/

namespace Sys2Proof.Machine

/-- In BASE there is no `SEL` to write (10_state.md R18). -/
theorem State.started_base {s : State} (hv : s.device.variant = .base) (t : Table) :
    s.started t = { s with txl := s.device.tables.byte t 0, mode := .streaming, cur := 1 } := by
  simp only [State.started, State.writeSel, State.setMode, State.queueTransmit, State.setCur, hv]

theorem State.started_ext {s : State} (hv : s.device.variant = .ext) (t : Table) :
    s.started t =
      { s with txl := s.device.tables.byte t 0, mode := .streaming, sel := t, cur := 1 } := by
  simp only [State.started, State.writeSel, State.setMode, State.queueTransmit, State.setCur, hv]

theorem exec_rdsec_eq (s : State) : exec .rdsec s = .next (s.started .securityRegister) :=
  (exec_rdsec s).trans (startStream_eq_started rfl)

theorem exec_rdid_ext {s : State} (hv : s.device.variant = .ext) :
    exec .rdid s = .next (s.started .manufacturerId) :=
  (exec_rdid s).trans (startStream_eq_started (by rw [hv]; rfl))

theorem onReset_base {s : State} (hv : s.device.variant = .base) :
    onReset s = { s with
      mode := .awaitingCommand, cur := Config.curReset s.draws, txl := Config.txlReset s.draws,
      wire := [], draws := s.draws + 1 } := by
  simp only [onReset, State.writeSel, State.drawn, hv]

theorem onReset_ext {s : State} (hv : s.device.variant = .ext) :
    onReset s = { s with
      mode := .awaitingCommand, sel := Config.selReset s.draws, cur := Config.curReset s.draws,
      txl := Config.txlReset s.draws, wire := [], draws := s.draws + 1 } := by
  simp only [onReset, State.writeSel, State.drawn, hv]

theorem classOf_unrec {s : State} {rx : Byte} (hm : s.mode = .awaitingCommand)
    (hx : rx ∉ s.device.variant.opcodes) : s.classOf rx = .unrec rx := by
  rw [State.classOf, hm, classify_of_not_mem_opcodes hx]

/-- In BASE no byte is classed `RDID` (42_unrecognised_opcode.md R54). -/
theorem classOf_ne_rdid {s : State} (hv : s.device.variant = .base) (rx : Byte) : s.classOf rx ≠ .rdid := by
  intro h
  have hwf : (s.classOf rx).wf s.device.variant s.mode = true := wf_classify _ _ rx
  simp [h, hv, Instr.wf] at hwf

/-- Under HOLD an unrecognised byte sends `TXL` out and changes no register (R53, D12). -/
theorem step_unrec_hold {s : State} {rx : Byte} {rest : List Event} (hm : s.mode = .awaitingCommand)
    (hp : s.device.unrecPolicy = .hold) (hx : rx ∉ s.device.variant.opcodes)
    (hs : s.script = .xchg rx :: rest) : step s = .next (s.setScript rest).shiftOut := by
  rw [step_xchg hs, classOf_unrec hm hx, exec_unrec, execUnrec_hold rx (s.setScript rest).shiftOut hp]

/-! ### The obligations: the meanings -/

/-- Settles O13: `STATUS` is one load of `TXL`. -/
theorem statusLoadsTheStatusByte : Obligations.StatusLoadsTheStatusByte := exec_status

/-- Settles O15: the stream starts with the zero header; `SEL` by the variant. -/
theorem rdsecStartsTheSecurityStream : Obligations.RdsecStartsTheSecurityStream := by
  intro s
  have hfirst : s.device.tables.byte .securityRegister 0 = 0x00 := Memory.byte_header _ 0 (by decide)
  refine ⟨by rw [tableRead_sr s.device (by decide), hfirst], ?_⟩
  rw [exec_rdsec_eq]
  cases hv : s.device.variant with
  | base => rw [State.started_base hv, hfirst]
  | ext => rw [State.started_ext hv, hfirst]

/-- Settles O17: the stream starts with the first code byte. -/
theorem rdidStartsTheManufacturerStream : Obligations.RdidStartsTheManufacturerStream := by
  intro s hv
  have hfirst : s.device.tables.byte .manufacturerId 0 = s.device.midCode 0 :=
    byte_midCode s.device (by decide)
  exact ⟨by rw [tableRead_mid hv (by decide), hfirst],
    by rw [exec_rdid_ext hv, State.started_ext hv, hfirst]⟩

/-- Settles O18: the table does not exist in BASE, and `RDID` is well-formed in EXT only. -/
theorem rdidStopsAndIsNeverDecodedInBase : Obligations.RdidStopsAndIsNeverDecodedInBase := by
  intro s hv
  exact ⟨(exec_rdid s).trans (startStream_fault _ s (tableExists_mid_base hv)), classOf_ne_rdid hv⟩

/-- Settles O20: the two policies. -/
theorem unrecHoldsTheRegisters : Obligations.UnrecHoldsTheRegisters :=
  fun s rx => ⟨execUnrec_hold rx s, execUnrec_anyValue rx s⟩

/-- Settles O22: `0x9F` is none of BASE's opcodes. -/
theorem baseTreatsManufacturerOpcodeAsUnrecognised :
    Obligations.BaseTreatsManufacturerOpcodeAsUnrecognised := by
  intro s rest hv hp hm hs
  exact step_unrec_hold hm hp (by rw [hv]; decide) hs

/-- Settles O23: inside the table `FILL` is `State.filled`, outside it the fault. -/
theorem fillLoadsTheByteAtTheCursor : Obligations.FillLoadsTheByteAtTheCursor := by
  intro s rx
  refine ⟨fun hm => classOf_streaming hm rx, ?inside, ?outside⟩
  case inside =>
    intro hc
    refine ⟨_, tableRead_ok s.device s.selected s.cur.toNat (tableExists_selected s) hc, ?_⟩
    rw [exec_fill, streamByte_eq_filled hc, ← State.filled_mode_eq hc]
    rfl
  case outside =>
    intro hc
    exact (exec_fill rx s).trans (streamByte_fault s (Nat.not_lt.mpr hc))

/-! ### The obligations: the events -/

/-- Settles O30: the decoded instruction is the byte's class. -/
theorem stepRunsTheDecodedByte : Obligations.StepRunsTheDecodedByte := by
  intro s rx rest i left hs hd
  obtain ⟨rfl, -⟩ : s.classOf rx = i ∧ [] = left := by simpa [decode_cons, State.classOf] using hd
  exact step_xchg hs

/-- Settles O31: without an event the step is the wait. -/
theorem stepWaitsWithoutAnEvent : Obligations.StepWaitsWithoutAnEvent := fun _ hs => step_wait hs

/-- Settles O33: the draws of `onReset`, `SEL` by the variant. -/
theorem resetEventDrawsTheUnspecifiedRegisters :
    Obligations.ResetEventDrawsTheUnspecifiedRegisters := by
  intro s rest hs
  rw [step_reset hs]
  cases hv : s.device.variant with
  | base => rw [onReset_base (s := s.setScript rest) hv]; rfl
  | ext => rw [onReset_ext (s := s.setScript rest) hv]; rfl

/-- Settles O34: `State.reset` is a `State.poweredUp`, whose mode is `AwaitingCommand`. -/
theorem resetStateIsAwaitingCommand : Obligations.ResetStateIsAwaitingCommand :=
  ⟨rfl, Memory.wf_empty, rfl, rfl, cursorInRange_of_awaiting rfl, .poweredUp _ _ _ _⟩

/-- Settles O35: the step is `onDesel`, which writes `MODE` alone. -/
theorem deselForcesAwaitingCommand : Obligations.DeselForcesAwaitingCommand := fun _ _ hs => step_desel hs

end Sys2Proof.Machine
end

section
/-! PROOFS. Frames: what a meaning leaves alone, and what it does not look at. -/

namespace Sys2Proof.Machine

/-- No meaning takes an event or puts a byte on the link: the exchange around it does (60_exceptions.md R70). -/
theorem exec_script_wire {i : Instr} {s u : State} (h : exec i s = .next u) :
    u.script = s.script ∧ u.wire = s.wire := by
  obtain ⟨rx, -, -, rfl⟩ | ⟨-, rfl⟩ | ⟨t, -, -, rfl⟩ | ⟨rx, -, -, rfl⟩ | ⟨rx, -, -, rfl⟩ := exec_cases h
  · exact ⟨rfl, rfl⟩
  · exact ⟨rfl, rfl⟩
  · simp
  · exact ⟨rfl, rfl⟩
  · exact ⟨rfl, rfl⟩

/-- An exchange's step takes its event and puts `TXL`, as it stood before, on the link (D3). -/
theorem step_xchg_script_wire {s u : State} {rx : Byte} {rest : List Event}
    (hs : s.script = .xchg rx :: rest) (h : step s = .next u) :
    u.script = rest ∧ u.wire = s.wire ++ [s.txl] :=
  exec_script_wire ((step_xchg hs).symm.trans h)

/-- Settles O26: the device, the script and the link for every meaning, then the registers of each. -/
theorem instructionFrames : Obligations.InstructionFrames := by
  intro i s u h
  have hd : u.device = s.device := exec_device h
  obtain ⟨hscript, hwire⟩ := exec_script_wire h
  refine ⟨hd, hscript, hwire, fun t k => by rw [hd], ?_⟩
  cases i with
  | fill rx =>
    obtain ⟨-, rfl⟩ := eq_filled_of_streamByte ((exec_fill rx s).symm.trans h)
    exact ⟨rfl, rfl⟩
  | status =>
    obtain rfl := execStatus_cases h
    exact ⟨rfl, rfl, rfl, rfl⟩
  | rdsec =>
    obtain ⟨-, rfl⟩ := eq_started_of_startStream ((exec_rdsec s).symm.trans h)
    exact ⟨State.started_draws s _, fun hv => by rw [State.started_base hv]⟩
  | rdid =>
    obtain ⟨-, rfl⟩ := eq_started_of_startStream ((exec_rdid s).symm.trans h)
    exact State.started_draws s _
  | unrec rx =>
    obtain ⟨-, rfl⟩ | ⟨hp, rfl⟩ := execUnrec_cases (rx := rx) h
    · exact ⟨rfl, rfl, rfl, fun _ => ⟨rfl, rfl⟩⟩
    · exact ⟨rfl, rfl, rfl, fun hhold => absurd (hp.symm.trans hhold) (by decide)⟩

/-! ### Simultaneous events (60_exceptions.md R66) -/

theorem State.offer_started (s : State) (es : List Event) (t : Table) :
    (s.offer es).started t = (s.started t).offer es := by
  cases hv : s.device.variant with
  | base => rw [State.started_base hv, State.started_base (s := s.offer es) hv]; rfl
  | ext => rw [State.started_ext hv, State.started_ext (s := s.offer es) hv]; rfl

theorem startStream_offer {t : Table} {s u : State} (es : List Event) (h : startStream t s = .next u) :
    startStream t (s.offer es) = .next (u.offer es) := by
  obtain ⟨he, rfl⟩ := eq_started_of_startStream h
  rw [startStream_eq_started (s := s.offer es) he, State.offer_started]

/-- A meaning does not look at the events to come. -/
theorem exec_offer {i : Instr} {s u : State} (es : List Event) (h : exec i s = .next u) :
    exec i (s.offer es) = .next (u.offer es) := by
  cases i with
  | fill rx =>
    obtain ⟨hc, rfl⟩ := eq_filled_of_streamByte ((exec_fill rx s).symm.trans h)
    exact (exec_fill rx _).trans (streamByte_eq_filled (s := s.offer es) hc)
  | status =>
    obtain rfl := execStatus_cases h
    rfl
  | rdsec => exact (exec_rdsec _).trans (startStream_offer es ((exec_rdsec s).symm.trans h))
  | rdid => exact (exec_rdid _).trans (startStream_offer es ((exec_rdid s).symm.trans h))
  | unrec rx =>
    obtain ⟨hp, rfl⟩ | ⟨hp, rfl⟩ := execUnrec_cases (rx := rx) h
    · exact execUnrec_hold rx _ hp
    · exact execUnrec_anyValue rx (s.offer es) hp

/-- Events offered behind an exchange are still to come after its step. -/
theorem step_xchg_offer {s u : State} {rx : Byte} {rest : List Event} (es : List Event)
    (hs : s.script = .xchg rx :: rest) (h : step s = .next u) :
    step (s.offer es) = .next (u.offer es) := by
  have hs' : (s.offer es).script = .xchg rx :: (rest ++ es) := by rw [State.offer_script, hs]; rfl
  rw [step_xchg hs] at h
  rw [step_xchg hs']
  exact exec_offer es h

theorem step_offer_desel {u : State} (hs : u.script = []) :
    step (u.offer [.desel]) = .next { u with mode := .awaitingCommand } := by
  rw [step_desel (s := u.offer [.desel]) (rest := []) (by simp [hs]), ← hs]
  rfl

/-- Settles O40: the exchange's step, with the `DESEL` still to come, and then the `DESEL`'s. -/
theorem simultaneousEventsAreOrdered : Obligations.SimultaneousEventsAreOrdered := by
  refine ⟨?both, fun _ _ => rfl, fun _ => rfl, rfl, rfl⟩
  case both =>
    intro s u rx hs h
    have hx : (s.offer [.xchg rx]).script = [.xchg rx] := by simp [hs]
    have hu : u.script = [] := (step_xchg_script_wire hx h).1
    have hboth : s.offer (arbitrate { reset := false, xchg := some rx, desel := true }) =
        (s.offer [.xchg rx]).offer [.desel] := by simp [State.offer, arbitrate]
    rw [hboth, run_succ_of_next 1 (step_xchg_offer [.desel] hx h),
      run_succ_of_next 0 (step_offer_desel hu), run_zero]

end Sys2Proof.Machine
end

section
/-! PROOFS. `CUR` and `SEL` through a step, the one stop there is (60_exceptions.md R59, D13), and the runs that
never meet it. -/

namespace Sys2Proof.Machine

/-! ### `CUR` and `SEL` -/

/-- Settles O28: the event the step took, and for an exchange the meaning of its class. -/
theorem cursorMovesOnlyByReadsAndFills : Obligations.CursorMovesOnlyByReadsAndFills := by
  intro s u h
  refine ⟨?wait, ?desel, ?xchg⟩
  case wait =>
    intro hs
    obtain rfl : s = u := by simpa [step_wait hs] using h
    rfl
  case desel =>
    intro rest hs
    obtain rfl : onDesel (s.setScript rest) = u := by simpa [step_desel hs] using h
    rfl
  case xchg =>
    intro rx rest hs
    rw [step_xchg hs] at h
    cases hi : s.classOf rx with
    | fill b =>
      obtain ⟨hc, rfl⟩ := eq_filled_of_streamByte ((exec_fill b _).symm.trans (hi ▸ h))
      have hsucc := State.filled_cur_toNat hc
      exact ⟨hsucc, hsucc.trans_le hc⟩
    | status =>
      obtain rfl := execStatus_cases (hi ▸ h)
      rfl
    | rdsec =>
      obtain ⟨-, rfl⟩ := eq_started_of_startStream ((exec_rdsec _).symm.trans (hi ▸ h))
      rfl
    | rdid =>
      obtain ⟨-, rfl⟩ := eq_started_of_startStream ((exec_rdid _).symm.trans (hi ▸ h))
      rfl
    | unrec b => obtain ⟨-, rfl⟩ | ⟨-, rfl⟩ := execUnrec_cases (rx := b) (hi ▸ h) <;> rfl

/-- While the stream lasts each step is the wait or a `FILL`, and neither writes `SEL`. -/
theorem step_selected_of_streaming {s u : State} (hm : s.mode = .streaming) (h : step s = .next u)
    (hu : u.mode = .streaming) : u.selected = s.selected := by
  obtain ⟨-, rfl⟩ | ⟨rest, -, rfl⟩ | ⟨rest, -, rfl⟩ | ⟨rx, rest, -, hx⟩ := step_cases h
  · rfl
  · simp at hu
  · simp at hu
  · rw [classOf_streaming hm] at hx
    obtain ⟨-, rfl⟩ := eq_filled_of_streamByte ((exec_fill rx _).symm.trans hx)
    rfl

theorem startStream_selected {t : Table} {s u : State} (h : startStream t s = .next u) : u.selected = t := by
  obtain ⟨he, rfl⟩ := eq_started_of_startStream h
  exact State.started_selected s t he

/-- What enters `Streaming` is the opcode of the table that is then selected (R51, R52). -/
theorem step_enters_streaming {s u : State} (hm : s.mode = .awaitingCommand) (h : step s = .next u)
    (hu : u.mode = .streaming) : ∃ rest, s.script = .xchg (readOpcode u.selected) :: rest := by
  obtain ⟨-, rfl⟩ | ⟨rest, -, rfl⟩ | ⟨rest, -, rfl⟩ | ⟨rx, rest, hs, hx⟩ := step_cases h
  · exact absurd (hm.symm.trans hu) (by decide)
  · simp at hu
  · simp at hu
  · obtain ⟨rfl, hi⟩ | ⟨rfl, hi⟩ | ⟨rfl, -, hi⟩ | ⟨-, -, -, hi⟩ := classOf_awaiting_cases hm rx
    · rw [hi, exec_status] at hx
      obtain rfl := execStatus_cases hx
      simp [hm] at hu
    · rw [hi, exec_rdsec] at hx
      exact ⟨rest, by rw [startStream_selected hx]; exact hs⟩
    · rw [hi, exec_rdid] at hx
      exact ⟨rest, by rw [startStream_selected hx]; exact hs⟩
    · rw [hi, exec_unrec] at hx
      simp [execUnrec_mode hx, hm] at hu

/-- Settles O29: a stream's steps leave `SEL`, in BASE there is none, and a start selects its own table. -/
theorem selectedTableIsHeldThroughAStream : Obligations.SelectedTableIsHeldThroughAStream := by
  intro s u h
  refine ⟨fun hm => step_selected_of_streaming hm h, fun hv => ?_, fun hm => step_enters_streaming hm h⟩
  exact State.selected_base u (by rw [step_device h, hv])

/-! ### Which steps answer -/

/-- In `AwaitingCommand` no exchange stops: `RDID` is decoded only where its table exists. -/
theorem step_xchg_awaiting_next {s : State} {rx : Byte} {rest : List Event} (hm : s.mode = .awaitingCommand)
    (hs : s.script = .xchg rx :: rest) : ∃ u, step s = .next u := by
  rw [step_xchg hs]
  obtain ⟨-, hi⟩ | ⟨-, hi⟩ | ⟨-, hv, hi⟩ | ⟨-, -, -, hi⟩ := classOf_awaiting_cases hm rx
  · exact ⟨_, by rw [hi, exec_status]⟩
  · exact ⟨_, by rw [hi, exec_rdsec_eq]⟩
  · exact ⟨_, by rw [hi, exec_rdid_ext (s := (s.setScript rest).shiftOut) hv]⟩
  · rw [hi, exec_unrec]
    cases hp : s.device.unrecPolicy with
    | hold => exact ⟨_, execUnrec_hold rx (s.setScript rest).shiftOut hp⟩
    | anyValue => exact ⟨_, execUnrec_anyValue rx (s.setScript rest).shiftOut hp⟩

/-- A byte taken in `Streaming` with the cursor outside the table (R56, D13). -/
def State.overruns (s : State) : Prop :=
  s.mode = .streaming ∧ s.selected.length ≤ s.cur.toNat ∧ ∃ rx rest, s.script = .xchg rx :: rest

theorem step_fault_of_overruns {s : State} (h : s.overruns) : step s = .fault .tableIndex := by
  obtain ⟨hm, hc, rx, rest, hs⟩ := h
  rw [step_xchg_of_streaming hm hs]
  exact streamByte_fault (s.setScript rest).shiftOut (Nat.not_lt.mpr hc)

theorem step_next_of_not_overruns {s : State} (h : ¬s.overruns) : ∃ u, step s = .next u := by
  cases hs : s.script with
  | nil => exact ⟨_, step_wait hs⟩
  | cons e rest =>
    cases e with
    | reset => exact ⟨_, step_reset hs⟩
    | desel => exact ⟨_, step_desel hs⟩
    | xchg rx =>
      cases hm : s.mode with
      | awaitingCommand => exact step_xchg_awaiting_next hm hs
      | streaming =>
        have hc : s.cur.toNat < s.selected.length :=
          Nat.lt_of_not_le fun hc => h ⟨hm, hc, rx, rest, hs⟩
        exact ⟨_, step_streaming hm hc hs⟩

theorem not_overruns_of_cursorInRange {s : State} (h : s.cursorInRange) : ¬s.overruns :=
  fun ⟨hm, hc, _⟩ => Nat.not_lt.mpr hc (h hm).2

/-- Settles O45: an overrun faults, and every other step answers a next state. -/
theorem stepStopsOnlyOnACursorOutsideTheTable : Obligations.StepStopsOnlyOnACursorOutsideTheTable := by
  intro s
  by_cases h : s.overruns
  · have hstep := step_fault_of_overruns h
    exact ⟨iff_of_true ⟨_, hstep⟩ h, fun r hr => by simp [hstep] at hr⟩
  · obtain ⟨u, hstep⟩ := step_next_of_not_overruns h
    exact ⟨iff_of_false (by simp [hstep]) h, fun r hr => by simp [hstep] at hr⟩

/-! ### Reachable states -/

theorem Reachable.cursorInRange {s : State} (h : Reachable s) : s.cursorInRange := by
  induction h with
  | poweredUp d sel cur txl => exact cursorInRange_of_awaiting rfl
  | offer s es _ ih => exact ih
  | step s t _ hstep ih => exact step_keeps_cursorInRange ih hstep

/-- Settles O44: the invariant holds of every reachable state, and with it no step overruns. -/
theorem noReachableStateFaults : Obligations.NoReachableStateFaults :=
  fun _ h => ⟨h.cursorInRange, step_next_of_not_overruns (not_overruns_of_cursorInRange h.cursorInRange)⟩

/-! ### The way back to `AwaitingCommand` (70_reset_and_hazards.md R78) -/

/-- A stream, if there is one, has its cursor inside the table and at most `n` bytes to go. -/
def State.endsWithin (s : State) (n : Nat) : Prop :=
  s.mode = .streaming → s.cur.toNat < s.selected.length ∧ s.selected.length ≤ s.cur.toNat + n

theorem endsWithin_of_cursorInRange {s : State} (h : s.cursorInRange) : s.endsWithin 130 := by
  intro hm
  obtain ⟨hpos, hlt⟩ := h hm
  have hlen := s.selected.length_le
  exact ⟨hlt, by omega⟩

theorem awaiting_of_endsWithin_zero {s : State} (h : s.endsWithin 0) : s.mode = .awaitingCommand := by
  cases hm : s.mode with
  | awaitingCommand => rfl
  | streaming => exact absurd (h hm) (by omega)

/-- The byte starts no stream in the variant. -/
def startsNoStream (v : Variant) (rx : Byte) : Prop := rx ≠ 0x77 ∧ (v = .ext → rx ≠ 0x9F)

theorem filled_endsWithin {s : State} {n : Nat} (hm : s.mode = .streaming) (h : s.endsWithin (n + 1)) :
    s.filled.endsWithin n := by
  obtain ⟨hlt, hle⟩ := h hm
  intro hm'
  rw [State.filled_mode_eq hlt] at hm'
  have hmore : s.cur.toNat + 1 ≠ s.selected.length := fun hend => by simp [hend] at hm'
  rw [State.filled_cur_toNat hlt, State.filled_selected]
  omega

/-- A byte that starts no stream brings one that is there a byte nearer to its end. -/
theorem step_endsWithin {s : State} {n : Nat} {rx : Byte} {rest : List Event} (h : s.endsWithin (n + 1))
    (hx : startsNoStream s.device.variant rx) (hs : s.script = .xchg rx :: rest) :
    ∃ u, step s = .next u ∧ u.endsWithin n := by
  cases hm : s.mode with
  | streaming =>
    rw [step_xchg_of_streaming hm hs]
    exact ⟨_, streamByte_eq_filled (s := (s.setScript rest).shiftOut) (h hm).1,
      filled_endsWithin (s := (s.setScript rest).shiftOut) hm h⟩
  | awaitingCommand =>
    obtain ⟨u, hu⟩ := step_xchg_awaiting_next hm hs
    refine ⟨u, hu, fun hstream => ?_⟩
    obtain rfl | ⟨rfl, hv⟩ := (step_xchg_mode_of_awaiting hm hs hu).mp hstream
    · exact absurd rfl hx.1
    · exact absurd rfl (hx.2 hv)

theorem run_endsWithin {s : State} {bytes : List Byte} {rest : List Event} (h : s.endsWithin bytes.length)
    (hx : ∀ b ∈ bytes, startsNoStream s.device.variant b) (hs : s.script = exchanges bytes ++ rest) :
    ∃ u, run bytes.length s = .next u ∧ u.mode = .awaitingCommand ∧ u.script = rest := by
  induction bytes generalizing s with
  | nil => exact ⟨s, rfl, awaiting_of_endsWithin_zero h, hs⟩
  | cons b bs ih =>
    obtain ⟨t, ht, hends⟩ := step_endsWithin h (hx b List.mem_cons_self) hs
    have hscript : t.script = exchanges bs ++ rest := (step_xchg_script_wire hs ht).1
    rw [List.length_cons, run_succ_of_next bs.length ht]
    exact ih hends (fun x hmem => by rw [step_device ht]; exact hx x (List.mem_cons_of_mem b hmem)) hscript

/-- Settles O46: from a cursor of at least 1 no table has more than 130 bytes to go. -/
theorem hostRegainsAwaitingCommand : Obligations.HostRegainsAwaitingCommand := by
  intro s bytes rest hr hlen hx hs
  rw [← hlen]
  exact run_endsWithin (hlen ▸ endsWithin_of_cursorInRange hr) hx hs

end Sys2Proof.Machine
end

section
/-! PROOFS. The link (60_exceptions.md R70, D3), with `DESEL` events between two exchanges, and the runs of
unrecognised bytes (42_unrecognised_opcode.md R53). -/

namespace Sys2Proof.Machine

/-! ### The link -/

/-- `DESEL` events change neither the latch nor the link (D7). -/
theorem run_desels {s : State} {n : Nat} {rest : List Event}
    (hs : s.script = List.replicate n .desel ++ rest) :
    ∃ u, run n s = .next u ∧ u.script = rest ∧ u.wire = s.wire ∧ u.txl = s.txl := by
  induction n generalizing s with
  | zero => exact ⟨s, rfl, hs, rfl, rfl⟩
  | succ n ih =>
    have hdesel : s.script = .desel :: (List.replicate n .desel ++ rest) := hs
    rw [run_succ_of_next n (step_desel hdesel)]
    exact ih (s := onDesel (s.setScript (List.replicate n .desel ++ rest))) rfl

/-- Settles O38: each exchange sends the latch, and the `DESEL` events between leave latch and link. -/
theorem linkCarriesTheLatchOneExchangeLater : Obligations.LinkCarriesTheLatchOneExchangeLater := by
  intro s u v a b n rest hs hstep hrun
  obtain ⟨hscript, hwire⟩ := step_xchg_script_wire hs hstep
  obtain ⟨t, hdesels, hscript', hwire', htxl⟩ := run_desels hscript
  rw [run_add_of_next n 1 hdesels] at hrun
  obtain ⟨t', hlast, hend⟩ := run_succ_cases hrun
  obtain rfl : t' = v := by simpa using hend
  rw [(step_xchg_script_wire hscript' hlast).2, hwire', hwire, htxl, List.append_assoc]
  rfl

/-! ### Unrecognised bytes -/

/-- Under HOLD the stale byte goes out once for each unrecognised byte, and no register changes. -/
theorem run_unrec_hold {s : State} {bytes : List Byte} {rest : List Event} (hm : s.mode = .awaitingCommand)
    (hp : s.device.unrecPolicy = .hold) (hx : ∀ b ∈ bytes, b ∉ s.device.variant.opcodes)
    (hs : s.script = exchanges bytes ++ rest) :
    run bytes.length s =
      .next { s with script := rest, wire := s.wire ++ List.replicate bytes.length s.txl } := by
  induction bytes generalizing s with
  | nil =>
    obtain rfl : s.script = rest := hs
    simp
  | cons b bs ih =>
    have hscript : s.script = .xchg b :: (exchanges bs ++ rest) := hs
    rw [List.length_cons,
      run_succ_of_next bs.length (step_unrec_hold hm hp (hx b List.mem_cons_self) hscript),
      ih (s := (s.setScript (exchanges bs ++ rest)).shiftOut) hm hp
        (fun x hmem => hx x (List.mem_cons_of_mem b hmem)) rfl]
    simp [State.shiftOut, State.setScript, List.replicate_succ]

/-- Settles O21: it is the run of unrecognised bytes. -/
theorem unrecognisedBytesRepeatTheStaleByte : Obligations.UnrecognisedBytesRepeatTheStaleByte :=
  fun _ _ _ => run_unrec_hold

theorem step_status {s : State} {rest : List Event} (hm : s.mode = .awaitingCommand)
    (hs : s.script = .xchg 0xD7 :: rest) :
    step s = .next ((s.setScript rest).shiftOut.queueTransmit statusByte) := by
  rw [step_xchg hs, State.classOf, hm, classify_status, exec_status]

/-- Settles O14: `STATUS` loads its reply, and the unrecognised bytes repeat it. -/
theorem statusReplyRepeatsOnTheLink : Obligations.StatusReplyRepeatsOnTheLink := by
  intro s bytes rest hm hp hx hs
  rw [run_succ_of_next bytes.length (step_status (rest := exchanges bytes ++ rest) hm hs),
    run_unrec_hold (s := (s.setScript (exchanges bytes ++ rest)).shiftOut.queueTransmit statusByte)
      hm hp hx rfl]
  simp [State.shiftOut, State.setScript, State.queueTransmit, statusByte]

/-- The byte after the unrecognised ones, whatever it is, is the last to find the stale byte. -/
theorem run_unrec_hold_xchg {s : State} {bytes : List Byte} {b : Byte} {rest : List Event}
    (hm : s.mode = .awaitingCommand) (hp : s.device.unrecPolicy = .hold)
    (hx : ∀ x ∈ bytes, x ∉ s.device.variant.opcodes)
    (hs : s.script = exchanges bytes ++ .xchg b :: rest) :
    ∃ u, run (bytes.length + 1) s = .next u ∧ u.script = rest ∧
      u.wire = s.wire ++ List.replicate (bytes.length + 1) s.txl := by
  have hrun := run_unrec_hold hm hp hx hs
  obtain ⟨u, hu⟩ := step_xchg_awaiting_next (s := { s with
    script := .xchg b :: rest, wire := s.wire ++ List.replicate bytes.length s.txl }) hm rfl
  obtain ⟨hscript, hwire⟩ := step_xchg_script_wire rfl hu
  refine ⟨u, by rw [run_add_of_next bytes.length 1 hrun, run_succ_of_next 0 hu, run_zero], hscript, ?_⟩
  rw [hwire, List.replicate_succ', List.append_assoc]

/-- Settles O39: the link is empty after the `RESET`, and the stale byte is the draw. -/
theorem firstExchangesCarryTheResetDraw : Obligations.FirstExchangesCarryTheResetDraw := by
  intro s bytes b rest hp hx hs
  have hreset : step s = .next (onReset (s.setScript (exchanges bytes ++ .xchg b :: rest))) := step_reset hs
  rw [run_succ_of_next (bytes.length + 1) hreset]
  obtain ⟨v, hrun, hscript, hwire⟩ := run_unrec_hold_xchg (onReset_mode _)
    (by simpa using hp) (by simpa using hx) (onReset_script (s.setScript (exchanges bytes ++ .xchg b :: rest)))
  exact ⟨v, hrun, hscript, by simpa using hwire⟩

end Sys2Proof.Machine
end

section
/-! PROOFS. Runs of a stream (43_streaming.md R55, R57): any point of it, the whole replies of the read commands
(41_table_read_commands.md), and the streams cut or left alone (70_reset_and_hazards.md §3). -/

namespace Sys2Proof.Machine

/-! ### A run through a stream -/

/-- From `s` the bytes of `t` from index `i` on have been loaded, `n` of them, the table selected by `sel`: what
this leaves in every field but the script. -/
structure Streamed (s : State) (sel t : Table) (i n : Nat) (u : State) : Prop where
  cur : u.cur.toNat = i + n
  mode : u.mode = if i + n = t.length then .awaitingCommand else .streaming
  link : u.wire ++ [u.txl] = s.wire ++ s.txl :: s.device.bytesFrom t i n
  sel : u.sel = sel
  device : u.device = s.device
  draws : u.draws = s.draws

/-- The fields and the events to come are the whole state. -/
theorem Streamed.unique {s u v : State} {sel t : Table} {i n : Nat} (hu : Streamed s sel t i n u)
    (hv : Streamed s sel t i n v) (hs : u.script = v.script) : u = v := by
  have hcur : u.cur = v.cur := BitVec.eq_of_toNat_eq (hu.cur.trans hv.cur.symm)
  have hmode : u.mode = v.mode := hu.mode.trans hv.mode.symm
  obtain ⟨hwire, htxl⟩ : u.wire = v.wire ∧ u.txl = v.txl := by
    simpa using List.append_inj' (hu.link.trans hv.link.symm) rfl
  have hsel : u.sel = v.sel := hu.sel.trans hv.sel.symm
  have hdevice : u.device = v.device := hu.device.trans hv.device.symm
  have hdraws : u.draws = v.draws := hu.draws.trans hv.draws.symm
  cases u
  cases v
  simp_all

/-- The latch holds the last byte loaded, and the ones before it have gone out. -/
theorem Streamed.wire_txl {s u : State} {sel t : Table} {i n : Nat} (h : Streamed s sel t i (n + 1) u) :
    u.wire = s.wire ++ s.txl :: s.device.bytesFrom t i n ∧ u.txl = s.device.tables.byte t (i + n) := by
  have hlink := h.link
  rw [Device.bytesFrom_concat, ← List.cons_append, ← List.append_assoc] at hlink
  simpa using List.append_inj' hlink rfl

theorem Streamed.selected {s u : State} {t : Table} {i n : Nat} (h : Streamed s s.sel t i n u) :
    u.selected = s.selected := by
  simp only [State.selected, h.device, h.sel]

/-- One byte of a stream and then the rest of a run of it. -/
theorem Streamed.cons {s v u : State} {sel t : Table} {i n : Nat} (hv : Streamed s sel t i 1 v)
    (hu : Streamed v sel t (i + 1) n u) : Streamed s sel t i (n + 1) u where
  cur := by rw [hu.cur, Nat.add_right_comm, Nat.add_assoc]
  mode := by rw [hu.mode, Nat.add_right_comm, Nat.add_assoc]
  link := by
    rw [hu.link, ← List.singleton_append, ← List.append_assoc, hv.link, hv.device, Device.bytesFrom_succ]
    simp [Device.bytesFrom_succ]
  sel := hu.sel
  device := hu.device.trans hv.device
  draws := hu.draws.trans hv.draws

/-- One byte further into the stream, whatever byte comes in. -/
theorem step_streamed {s : State} {b : Byte} {rest : List Event} (hm : s.mode = .streaming)
    (hc : s.cur.toNat < s.selected.length) (hs : s.script = .xchg b :: rest) :
    ∃ v, step s = .next v ∧ v.script = rest ∧ v.txl = s.device.tables.byte s.selected s.cur.toNat ∧
      Streamed s s.sel s.selected s.cur.toNat 1 v := by
  have hc' : (s.setScript rest).shiftOut.cur.toNat < (s.setScript rest).shiftOut.selected.length := hc
  refine ⟨_, (step_xchg_of_streaming hm hs).trans (streamByte_eq_filled hc'), rfl, rfl, ?_⟩
  exact
    { cur := State.filled_cur_toNat hc'
      mode := (State.filled_mode_eq hc').trans (by rw [← hm]; rfl)
      link := by simp [Device.bytesFrom_succ]
      sel := rfl
      device := rfl
      draws := rfl }

/-- From a stream's state, or from the one its end left, bytes of any value load the next table bytes. -/
theorem run_stream {s : State} {bytes : List Byte} {rest : List Event}
    (hm : s.mode = if s.cur.toNat = s.selected.length then .awaitingCommand else .streaming)
    (hle : s.cur.toNat + bytes.length ≤ s.selected.length) (hs : s.script = exchanges bytes ++ rest) :
    outputs bytes.length s = s.device.bytesFrom s.selected s.cur.toNat bytes.length ∧
      ∃ u, run bytes.length s = .next u ∧ u.script = rest ∧
        Streamed s s.sel s.selected s.cur.toNat bytes.length u := by
  induction bytes generalizing s with
  | nil => exact ⟨rfl, s, rfl, hs, rfl, hm, rfl, rfl, rfl, rfl⟩
  | cons b bs ih =>
    rw [List.length_cons] at hle ⊢
    have hc : s.cur.toNat < s.selected.length := by omega
    have hstream : s.mode = .streaming := hm.trans (if_neg (Nat.ne_of_lt hc))
    obtain ⟨v, hstep, hscript, htxl, hv⟩ := step_streamed hstream hc hs
    obtain ⟨hout, u, hrun, hscript', hu⟩ :=
      ih (by rw [hv.mode, hv.cur, hv.selected]) (by rw [hv.cur, hv.selected]; omega) hscript
    rw [hv.cur, hv.selected, hv.device] at hout
    rw [hv.cur, hv.selected, hv.sel] at hu
    rw [run_succ_of_next _ hstep, outputs_succ_of_next _ hstep, hout, htxl, Device.bytesFrom_succ]
    exact ⟨rfl, u, hrun, hscript', hv.cons hu⟩

/-- The exchange after the end of a stream sends what the latch holds, and its byte is an opcode. -/
theorem step_xchg_awaiting {s : State} {b : Byte} {rest : List Event} (hm : s.mode = .awaitingCommand)
    (hs : s.script = .xchg b :: rest) :
    step s = exec (classify s.device.variant .awaitingCommand b)
      { s with script := rest, wire := s.wire ++ [s.txl] } := by
  have hi : s.classOf b = classify s.device.variant .awaitingCommand b := by rw [State.classOf, hm]
  rw [step_xchg hs, hi]
  rfl

/-- Settles O24: `run_stream`, and after the last byte the exchange that sends it. -/
theorem streamEndsExactlyAtTheTableLength : Obligations.StreamEndsExactlyAtTheTableLength := by
  intro s bytes rest hm hc hle hs
  obtain ⟨hout, u, hrun, hscript, hu⟩ :=
    run_stream (hm.trans (if_neg (Nat.ne_of_lt hc)).symm) hle hs
  refine ⟨hout, u, hrun, hu.cur, hu.mode, hu.link, hu.sel, hu.device, hscript, hu.draws, ?_⟩
  intro hend b rest' hrest
  have htxl : u.txl = s.device.tables.byte s.selected (s.selected.length - 1) := by
    obtain ⟨k, hk⟩ : ∃ k, bytes.length = k + 1 := Nat.exists_eq_succ_of_ne_zero (by omega)
    rw [hk] at hu hend
    rw [hu.wire_txl.2, ← hend]
    rfl
  rw [step_xchg_awaiting (hu.mode.trans (if_pos hend)) (hscript.trans hrest), hu.device, htxl]

/-! ### A read command and the fillers after it -/

/-- The table a read command leaves in `SEL`, which BASE does not have. -/
def State.selAfterRead (s : State) (t : Table) : Table :=
  match s.device.variant with
  | .base => s.sel
  | .ext => t

/-- A read command is the first byte of its stream. -/
theorem step_read {s : State} {t : Table} {rest : List Event} (hm : s.mode = .awaitingCommand)
    (he : tableExists s.device.variant t = true) (hs : s.script = .xchg (readOpcode t) :: rest) :
    ∃ v, step s = .next v ∧ v.script = rest ∧ v.txl = s.device.tables.byte t 0 ∧ v.selected = t ∧
      Streamed s (s.selAfterRead t) t 0 1 v := by
  refine ⟨(s.setScript rest).shiftOut.started t, step_readOpcode hm he hs, by simp, by simp,
    State.started_selected _ t he, ?_⟩
  exact
    { cur := rfl
      mode := by rw [if_neg (by have := t.one_lt_length; omega)]; simp
      link := by simp [Device.bytesFrom_succ]
      sel := State.started_sel _ t
      device := by simp
      draws := by simp }

/-- A read command and fillers of any value, as long as the table lasts, load the table from its start. -/
theorem run_read {s : State} {t : Table} {bytes : List Byte} {rest : List Event}
    (hm : s.mode = .awaitingCommand) (he : tableExists s.device.variant t = true)
    (hle : bytes.length + 1 ≤ t.length)
    (hs : s.script = .xchg (readOpcode t) :: exchanges bytes ++ rest) :
    outputs (bytes.length + 1) s = s.device.bytesFrom t 0 (bytes.length + 1) ∧
      ∃ u, run (bytes.length + 1) s = .next u ∧ u.script = rest ∧ u.selected = t ∧
        Streamed s (s.selAfterRead t) t 0 (bytes.length + 1) u := by
  obtain ⟨v, hstep, hscript, htxl, hsel, hv⟩ := step_read (rest := exchanges bytes ++ rest) hm he hs
  obtain ⟨hout, u, hrun, hscript', hu⟩ :=
    run_stream (by rw [hv.mode, hv.cur, hsel]) (by rw [hv.cur, hsel]; omega) hscript
  have husel : u.selected = t := hu.selected.trans hsel
  rw [hv.cur, hsel, hv.device] at hout
  rw [hv.cur, hsel, hv.sel] at hu
  rw [run_succ_of_next _ hstep, outputs_succ_of_next _ hstep, hout, htxl, Device.bytesFrom_succ]
  exact ⟨rfl, u, hrun, hscript', husel, hv.cons hu⟩

/-- The whole reply: with the fillers that complete it the mode is back (R57). -/
theorem run_whole_read {s : State} {t : Table} {bytes : List Byte} {rest : List Event}
    (hm : s.mode = .awaitingCommand) (he : tableExists s.device.variant t = true)
    (hlen : bytes.length + 1 = t.length)
    (hs : s.script = .xchg (readOpcode t) :: exchanges bytes ++ rest) :
    outputs (bytes.length + 1) s = s.device.bytesFrom t 0 (bytes.length + 1) ∧
      ∃ u, run (bytes.length + 1) s = .next u ∧ u.mode = .awaitingCommand ∧
        u.cur.toNat = bytes.length + 1 ∧ u.selected = t ∧ u.script = rest ∧ u.device = s.device ∧
        u.wire = s.wire ++ s.txl :: s.device.bytesFrom t 0 bytes.length := by
  obtain ⟨hout, u, hrun, hscript, hsel, hu⟩ := run_read hm he hlen.le hs
  refine ⟨hout, u, hrun, hu.mode.trans (if_pos ?_), ?_, hsel, hscript, hu.device, hu.wire_txl.1⟩
  · rw [Nat.zero_add, hlen]
  · rw [hu.cur, Nat.zero_add]

/-- Settles O16: `step_read` and `run_whole_read` of `SecurityRegister`. -/
theorem securityRegisterReadCommand : Obligations.SecurityRegisterReadCommand := by
  intro s rest
  refine ⟨fun hs => ⟨fun hm => ?start, fun hm => ?streaming⟩, fun fillers hlen hm hs => ?whole⟩
  case start =>
    obtain ⟨v, hstep, -, htxl, hsel, hv⟩ := step_read (t := .securityRegister) hm rfl hs
    exact ⟨v, hstep, htxl.trans (Memory.byte_header _ 0 (by decide)), hv.mode, hsel,
      BitVec.eq_of_toNat_eq hv.cur, hv.device⟩
  case streaming =>
    have hi := classOf_streaming hm 0x77
    exact ⟨hi, by rw [step_xchg hs, hi]; rfl⟩
  case whole =>
    obtain ⟨hout, u, hrun, hmode, hcur, hsel, hscript, hd, hwire⟩ :=
      run_whole_read (t := .securityRegister) hm rfl (by rw [hlen]; rfl) hs
    rw [hlen] at hout hrun hcur hwire
    exact ⟨hout, u, hrun, hmode, BitVec.eq_of_toNat_eq hcur, hsel, hscript, hd, hwire⟩

/-- Settles O19: `step_read` and `run_whole_read` of `ManufacturerId`, which exists in EXT. -/
theorem manufacturerIdReadCommand : Obligations.ManufacturerIdReadCommand := by
  intro s rest
  refine ⟨fun hm => classOf_streaming hm 0x9F, fun hm hv => classOf_unrec hm (by rw [hv]; decide),
    fun hm hv => ?_⟩
  have he : tableExists s.device.variant .manufacturerId = true := by rw [hv]; rfl
  refine ⟨fun hs => ?start, fun fillers hlen hs => ?whole⟩
  case start =>
    obtain ⟨v, hstep, -, htxl, hsel, hv⟩ := step_read (t := .manufacturerId) hm he hs
    exact ⟨v, hstep, htxl.trans (byte_midCode _ (by decide)), hv.mode, hsel,
      BitVec.eq_of_toNat_eq hv.cur, hv.device⟩
  case whole =>
    obtain ⟨hout, u, hrun, hmode, hcur, hsel, hscript, hd, hwire⟩ :=
      run_whole_read (t := .manufacturerId) hm he (by rw [hlen]; rfl) hs
    rw [hlen] at hout hrun hcur hwire
    exact ⟨hout, u, hrun, hmode, BitVec.eq_of_toNat_eq hcur, hsel, hscript, hd, hwire⟩

/-! ### A stream cut, and a stream left alone -/

/-- Settles O36: `DESEL` leaves the latch, the cursor and the link as the fillers left them. -/
theorem interruptedStreamIsForgotten : Obligations.InterruptedStreamIsForgotten := by
  intro s t fillers b rest hm he hlt hs
  obtain ⟨-, v, hrun, hscript, -, hv⟩ := run_read hm he hlt.le hs
  obtain ⟨hwire, htxl⟩ := hv.wire_txl
  rw [Nat.zero_add] at htxl
  have hdesel := step_desel hscript
  refine ⟨onDesel (v.setScript (.xchg b :: rest)), ?run, rfl, ?cur, hv.device, htxl, hwire, ?next⟩
  case run => rw [run_add_of_next (fillers.length + 1) 1 hrun, run_succ_of_next 0 hdesel, run_zero]
  case cur => exact hv.cur.trans (Nat.zero_add _)
  case next =>
    rw [step_xchg_awaiting (s := onDesel (v.setScript (.xchg b :: rest))) rfl rfl, ← hv.link, ← hv.device]
    rfl

/-- The fillers' values play no part in what a read command and they lead to (R58). -/
theorem run_read_congr {s : State} {t : Table} {xs ys : List Byte} {rest : List Event}
    (hm : s.mode = .awaitingCommand) (he : tableExists s.device.variant t = true)
    (hlen : xs.length = ys.length) (hle : xs.length + 1 ≤ t.length) :
    run (xs.length + 1) (s.setScript (.xchg (readOpcode t) :: exchanges xs ++ rest)) =
      run (xs.length + 1) (s.setScript (.xchg (readOpcode t) :: exchanges ys ++ rest)) := by
  obtain ⟨-, u, hrun, hscript, -, hu⟩ :=
    run_read (s := s.setScript (.xchg (readOpcode t) :: exchanges xs ++ rest)) hm he hle rfl
  obtain ⟨-, v, hrun', hscript', -, hv⟩ :=
    run_read (s := s.setScript (.xchg (readOpcode t) :: exchanges ys ++ rest)) hm he (hlen ▸ hle) rfl
  rw [← hlen] at hrun' hv
  have hu' : Streamed s (s.selAfterRead t) t 0 (xs.length + 1) u := { hu with }
  have hv' : Streamed s (s.selAfterRead t) t 0 (xs.length + 1) v := { hv with }
  rw [hrun, hrun', hu'.unique hv' (hscript.trans hscript'.symm)]

theorem exchanges_append (xs ys : List Byte) : exchanges (xs ++ ys) = exchanges xs ++ exchanges ys :=
  List.map_append

/-- Settles O37: the fillers and the swallowed bytes are one string of fillers. -/
theorem abandonedStreamSwallowsBytes : Obligations.AbandonedStreamSwallowsBytes := by
  intro s t fillers xs ys rest hm he hlen hle
  have hlen' : (fillers ++ xs).length = (fillers ++ ys).length := by simp [hlen]
  have hle' : (fillers ++ xs).length + 1 ≤ t.length := by simpa using hle
  have hrun := run_read_congr (rest := rest) hm he hlen' hle'
  have hout := (run_read (s := s.setScript (.xchg (readOpcode t) :: exchanges (fillers ++ xs) ++ rest))
    hm he hle' rfl).1
  simp only [exchanges_append, List.length_append] at hrun hout
  exact ⟨hrun, hout⟩

end Sys2Proof.Machine
end

section
/-! PROOFS. The transport by clock periods (60_exceptions.md R71, R72, 20_memory.md R34): the bit order, a byte in
progress, the exchange it becomes and the deselection that discards it. -/

namespace Sys2Proof.Machine

/-! ### Bits in time order -/

theorem bitsOf_getElem? (b : Byte) {k : Nat} (h : k < 8) : (bitsOf b)[k]? = some (b.getLsbD (7 - k)) := by
  interval_cases k <;> rfl

@[simp] theorem length_bitsOf (b : Byte) : (bitsOf b).length = 8 := rfl

theorem bitsOf_byteOf_eight (b7 b6 b5 b4 b3 b2 b1 b0 : Bool) :
    bitsOf (byteOf [b7, b6, b5, b4, b3, b2, b1, b0]) = [b7, b6, b5, b4, b3, b2, b1, b0] := by
  revert b7 b6 b5 b4 b3 b2 b1 b0
  decide

theorem bitsOf_byteOf {bits : List Bool} (h : bits.length = 8) : bitsOf (byteOf bits) = bits := by
  match bits, h with
  | [b7, b6, b5, b4, b3, b2, b1, b0], _ => exact bitsOf_byteOf_eight b7 b6 b5 b4 b3 b2 b1 b0

theorem bitsOf_injective : Function.Injective bitsOf := by
  intro a b h
  refine BitVec.eq_of_getLsbD_eq fun i hi => ?_
  have hk : 7 - i < 8 := by omega
  have hbit : some (a.getLsbD (7 - (7 - i))) = some (b.getLsbD (7 - (7 - i))) := by
    rw [← bitsOf_getElem? a hk, ← bitsOf_getElem? b hk, h]
  simpa [Nat.sub_sub_self (Nat.le_of_lt_succ hi)] using hbit

theorem byteOf_bitsOf (b : Byte) : byteOf (bitsOf b) = b :=
  bitsOf_injective (bitsOf_byteOf (length_bitsOf b))

/-- Settles O7: eight bits come back bit by bit; a byte comes back since its bits determine it. -/
theorem linkBitsRoundTrip : Obligations.LinkBitsRoundTrip :=
  ⟨byteOf_bitsOf, fun _ => bitsOf_byteOf, fun b _ => bitsOf_getElem? b⟩

/-! ### Clock periods -/

/-- The byte going out: copied from `TXL` with the first clock period of a byte (R70). -/
def Adapter.sending (a : Adapter) (txl : Byte) : Byte := if a.captured = [] then txl else a.shifter

/-- The adapter with one more bit captured of the byte in progress. -/
def Adapter.capture (a : Adapter) (txl : Byte) (bit : Bool) : Adapter :=
  { a with captured := a.captured ++ [bit], shifter := a.sending txl }

theorem sending_capture (a : Adapter) (txl : Byte) (bit : Bool) :
    (a.capture txl bit).sending txl = a.sending txl := by
  simp [Adapter.capture, Adapter.sending]

/-- A clock period short of the eighth: a bit each way and no event. -/
theorem move_clock_short {a : Adapter} {txl : Byte} {bit : Bool} (hsel : a.selected = true)
    (hlen : a.captured.length + 1 < 8) :
    a.move txl (.clock bit) =
      some (a.capture txl bit, [(a.sending txl).getLsbD (7 - a.captured.length)], none) := by
  have hne : (a.captured ++ [bit]).length ≠ 8 := by simp; omega
  simp only [Adapter.move, if_pos hsel, if_neg hne]
  rfl

/-- The eighth clock period completes the exchange. -/
theorem move_clock_last {a : Adapter} {txl : Byte} {bit : Bool} (hsel : a.selected = true)
    (hlen : a.captured.length = 7) :
    a.move txl (.clock bit) =
      some ({ a with captured := [], shifter := a.sending txl }, [(a.sending txl).getLsbD 0],
        some (.xchg (byteOf (a.captured ++ [bit])))) := by
  have heq : (a.captured ++ [bit]).length = 8 := by simp [hlen]
  simp only [Adapter.move, if_pos hsel, if_pos heq, hlen]
  rfl

/-- The adapter with more bits captured of the byte in progress, the first one first. -/
def Adapter.captureAll (a : Adapter) (txl : Byte) : List Bool → Adapter
  | [] => a
  | bit :: bits => (a.capture txl bit).captureAll txl bits

theorem captureAll_selected (a : Adapter) (txl : Byte) (bits : List Bool) :
    (a.captureAll txl bits).selected = a.selected := by
  induction bits generalizing a with
  | nil => rfl
  | cons bit bits ih => exact ih (a.capture txl bit)

theorem captureAll_captured (a : Adapter) (txl : Byte) (bits : List Bool) :
    (a.captureAll txl bits).captured = a.captured ++ bits := by
  induction bits generalizing a with
  | nil => exact (List.append_nil _).symm
  | cons bit bits ih => exact (ih (a.capture txl bit)).trans (List.append_assoc a.captured [bit] bits)

theorem sending_captureAll (a : Adapter) (txl : Byte) (bits : List Bool) :
    (a.captureAll txl bits).sending txl = a.sending txl := by
  induction bits generalizing a with
  | nil => rfl
  | cons bit bits ih => exact (ih (a.capture txl bit)).trans (sending_capture a txl bit)

/-! ### Runs of the link -/

/-- What a run of the link answers, with the bits driven before it in front. -/
def afterBits (driven : List Bool) (r : Adapter × State × List Bool) : Adapter × State × List Bool :=
  (r.1, r.2.1, driven ++ r.2.2)

theorem afterBits_append (d d' : List Bool) (r : Option (Adapter × State × List Bool)) :
    (r.map (afterBits d')).map (afterBits d) = r.map (afterBits (d ++ d')) := by
  cases r <;> simp [afterBits]

theorem linkRun_quiet {m : HostMove} {a a' : Adapter} {s : State} {driven : List Bool} (ms : List HostMove)
    (h : a.move s.txl m = some (a', driven, none)) :
    linkRun (m :: ms) a s = (linkRun ms a' s).map (afterBits driven) := by
  simp only [linkRun, h, State.take]
  rfl

theorem linkRun_event {m : HostMove} {a a' : Adapter} {s u : State} {driven : List Bool} {e : Event}
    (ms : List HostMove) (h : a.move s.txl m = some (a', driven, some e))
    (hstep : step { s with script := e :: s.script } = .next u) :
    linkRun (m :: ms) a s = (linkRun ms a' u).map (afterBits driven) := by
  simp only [linkRun, h, State.take, hstep]
  rfl

theorem drop_bitsOf (b : Byte) {k : Nat} (h : k < 8) :
    (bitsOf b).drop k = b.getLsbD (7 - k) :: (bitsOf b).drop (k + 1) := by
  have hlen : k < (bitsOf b).length := h
  rw [List.drop_eq_getElem_cons hlen,
    Option.some_inj.mp ((List.getElem?_eq_getElem hlen).symm.trans (bitsOf_getElem? b h))]

/-- Clock periods short of a whole byte: the device drives the next bits of the byte going out, and the core
sees nothing. -/
theorem linkRun_clocks_short {a : Adapter} {s : State} {bits : List Bool} (ms : List HostMove)
    (hsel : a.selected = true) (hlen : a.captured.length + bits.length < 8) :
    linkRun (bits.map HostMove.clock ++ ms) a s =
      (linkRun ms (a.captureAll s.txl bits) s).map
        (afterBits (((bitsOf (a.sending s.txl)).drop a.captured.length).take bits.length)) := by
  induction bits generalizing a with
  | nil => cases h : linkRun ms a s <;> simp [Adapter.captureAll, afterBits, h]
  | cons bit bits ih =>
    rw [List.length_cons] at hlen
    have hcap : (a.capture s.txl bit).captured.length = a.captured.length + 1 := by simp [Adapter.capture]
    rw [List.map_cons, List.cons_append, linkRun_quiet _ (move_clock_short hsel (by omega)),
      ih (a := a.capture s.txl bit) hsel (by omega), afterBits_append, hcap, sending_capture,
      drop_bitsOf _ (by omega : a.captured.length < 8)]
    rfl

/-- From the start of a byte. -/
theorem linkRun_clocks_start {a : Adapter} {s : State} {bits : List Bool} (ms : List HostMove)
    (hsel : a.selected = true) (hcap : a.captured = []) (hlen : bits.length < 8) :
    linkRun (bits.map HostMove.clock ++ ms) a s =
      (linkRun ms (a.captureAll s.txl bits) s).map (afterBits ((bitsOf s.txl).take bits.length)) := by
  have hsend : a.sending s.txl = s.txl := if_pos hcap
  rw [linkRun_clocks_short ms hsel (by simpa [hcap] using hlen), hsend, hcap]
  rfl

/-- Settles O41: seven clock periods without an event, and the eighth with the exchange. -/
theorem eightClocksAreOneExchange : Obligations.EightClocksAreOneExchange := by
  intro a s u rx hsel hcap hstep
  have hbits : (bitsOf rx).map HostMove.clock =
      ((bitsOf rx).take 7).map HostMove.clock ++ [.clock (rx.getLsbD 0)] := rfl
  have hgot : (a.captureAll s.txl ((bitsOf rx).take 7)).captured = (bitsOf rx).take 7 := by
    rw [captureAll_captured, hcap, List.nil_append]
  have hsend : (a.captureAll s.txl ((bitsOf rx).take 7)).sending s.txl = s.txl := by
    rw [sending_captureAll, Adapter.sending, if_pos hcap]
  have hlast := move_clock_last (txl := s.txl) (bit := rx.getLsbD 0)
    ((captureAll_selected a s.txl ((bitsOf rx).take 7)).trans hsel) (by rw [hgot]; rfl)
  have hbyte : byteOf ((bitsOf rx).take 7 ++ [rx.getLsbD 0]) = rx := byteOf_bitsOf rx
  rw [hgot, hsend, hbyte, captureAll_selected, hsel] at hlast
  rw [hbits, linkRun_clocks_start _ hsel hcap (by simp), linkRun_event [] hlast hstep]
  rfl

/-- Settles O42: the deselection drops what is captured, and its one event is `DESEL`. -/
theorem partialByteIsDiscarded : Obligations.PartialByteIsDiscarded := by
  intro a s
  refine ⟨fun bits hsel hcap hlen => ?partialByte, fun bit hsel => by simp [linkRun, Adapter.move, hsel]⟩
  case partialByte =>
    have hsel' : (a.captureAll s.txl bits).selected = true := (captureAll_selected a s.txl bits).trans hsel
    have hmove : (a.captureAll s.txl bits).move s.txl .deselect =
        some ({ a.captureAll s.txl bits with selected := false, captured := [] }, [], some .desel) :=
      if_pos hsel'
    have hdesel : step { s with script := .desel :: s.script } =
        .next { s with mode := .awaitingCommand } := step_desel rfl
    refine ⟨{ a.captureAll s.txl bits with selected := false, captured := [] }, rfl, rfl, ?_⟩
    rw [linkRun_clocks_start _ hsel hcap hlen, linkRun_event [] hmove hdesel]
    simp [linkRun, afterBits]

end Sys2Proof.Machine
end

section
/-! PROOFS. A BASE device never shows `ManufacturerId` (10_state.md R24): a machine and its twin, which has another
content there and another field of the absent `SEL`, take the same steps. -/

namespace Sys2Proof.Machine

/-- `s` with other content of `ManufacturerId` and another field `sel`. -/
def State.twin (s : State) (cells : List Host.Cell) (sel : Table) : State :=
  { s with sel := sel, device := { s.device with tables := { s.device.tables with mid := cells } } }

theorem twin_selected {s : State} (cells : List Host.Cell) (sel : Table) (hv : s.device.variant = .base) :
    (s.twin cells sel).selected = s.selected :=
  (State.selected_base (s.twin cells sel) hv).trans (State.selected_base s hv).symm

theorem twin_filled {s : State} (cells : List Host.Cell) (sel : Table) (hv : s.device.variant = .base) :
    (s.twin cells sel).filled = s.filled.twin cells sel := by
  simp only [State.filled, twin_selected cells sel hv, State.selected_base s hv]
  rfl

theorem twin_started_sr {s : State} (cells : List Host.Cell) (sel : Table) (hv : s.device.variant = .base) :
    (s.twin cells sel).started .securityRegister = (s.started .securityRegister).twin cells sel := by
  rw [State.started_base hv, State.started_base (s := s.twin cells sel) hv]
  rfl

theorem twin_onReset {s : State} (cells : List Host.Cell) (sel : Table) (hv : s.device.variant = .base) :
    onReset (s.twin cells sel) = (onReset s).twin cells sel := by
  rw [onReset_base hv, onReset_base (s := s.twin cells sel) hv]
  rfl

/-- A meaning that answers in BASE reads neither `ManufacturerId` nor the field `sel`. -/
theorem exec_twin {i : Instr} {s u : State} (cells : List Host.Cell) (sel : Table)
    (hv : s.device.variant = .base) (h : exec i s = .next u) :
    exec i (s.twin cells sel) = .next (u.twin cells sel) := by
  cases i with
  | fill rx =>
    obtain ⟨hc, rfl⟩ := eq_filled_of_streamByte ((exec_fill rx s).symm.trans h)
    have hc' : (s.twin cells sel).cur.toNat < (s.twin cells sel).selected.length := by
      rw [twin_selected cells sel hv]
      exact hc
    rw [exec_fill, streamByte_eq_filled hc', twin_filled cells sel hv]
  | status =>
    obtain rfl := execStatus_cases h
    rfl
  | rdsec =>
    rw [exec_rdsec_eq] at h ⊢
    obtain rfl : s.started .securityRegister = u := by simpa using h
    rw [twin_started_sr cells sel hv]
  | rdid =>
    obtain ⟨he, -⟩ := eq_started_of_startStream ((exec_rdid s).symm.trans h)
    simp [tableExists_mid_base hv] at he
  | unrec rx =>
    obtain ⟨hp, rfl⟩ | ⟨hp, rfl⟩ := execUnrec_cases (rx := rx) h
    · exact execUnrec_hold rx _ hp
    · exact execUnrec_anyValue rx (s.twin cells sel) hp

theorem step_twin {s u : State} (cells : List Host.Cell) (sel : Table) (hv : s.device.variant = .base)
    (h : step s = .next u) : step (s.twin cells sel) = .next (u.twin cells sel) := by
  obtain ⟨hs, rfl⟩ | ⟨rest, hs, rfl⟩ | ⟨rest, hs, rfl⟩ | ⟨rx, rest, hs, hx⟩ := step_cases h
  · exact step_wait hs
  · rw [step_reset (s := s.twin cells sel) hs, ← twin_onReset cells sel (s := s.setScript rest) hv]
    rfl
  · exact step_desel (s := s.twin cells sel) hs
  · rw [step_xchg (s := s.twin cells sel) hs]
    exact exec_twin cells sel (s := (s.setScript rest).shiftOut) hv hx

/-- The twin meets the one fault where the machine does. -/
theorem overruns_twin {s : State} (cells : List Host.Cell) (sel : Table) (hv : s.device.variant = .base)
    (h : s.overruns) : (s.twin cells sel).overruns := by
  obtain ⟨hm, hc, hx⟩ := h
  exact ⟨hm, by rw [twin_selected cells sel hv]; exact hc, hx⟩

theorem outputs_of_overruns {s : State} (n : Nat) (h : s.overruns) : outputs n s = [] := by
  cases n with
  | zero => rfl
  | succ n => simp [outputs, step_fault_of_overruns h]

theorem outputs_twin {s : State} (n : Nat) (cells : List Host.Cell) (sel : Table)
    (hv : s.device.variant = .base) : outputs n (s.twin cells sel) = outputs n s := by
  induction n generalizing s with
  | zero => rfl
  | succ n ih =>
    by_cases hf : s.overruns
    · rw [outputs_of_overruns _ hf, outputs_of_overruns _ (overruns_twin cells sel hv hf)]
    · obtain ⟨u, hu⟩ := step_next_of_not_overruns hf
      rw [outputs_succ_of_next n hu, outputs_succ_of_next n (step_twin cells sel hv hu),
        ih (by rw [step_device hu, hv])]
      rfl

theorem run_twin {n : Nat} {s u : State} (cells : List Host.Cell) (sel : Table)
    (hv : s.device.variant = .base) (h : run n s = .next u) :
    run n (s.twin cells sel) = .next (u.twin cells sel) := by
  induction n generalizing s with
  | zero =>
    cases h
    rfl
  | succ n ih =>
    obtain ⟨t, ht, hrun⟩ := run_succ_cases h
    rw [run_succ_of_next n (step_twin cells sel hv ht)]
    exact ih (by rw [step_device ht, hv]) hrun

/-- Settles O47: the twin's run is the twin of the run, and has its latch, link, mode and cursor. -/
theorem baseNeverShowsManufacturerId : Obligations.BaseNeverShowsManufacturerId := by
  intro n s cells sel hv
  exact ⟨outputs_twin n cells sel hv,
    fun u hu => ⟨u.twin cells sel, run_twin cells sel hv hu, rfl, rfl, rfl, rfl⟩⟩

end Sys2Proof.Machine
end
